-- ==== Sys2Proof/Word.lean ====
section
/-! DEFINITION. The word types of the register-channel block (00_scope.md R9, R10). -/

namespace Sys2Proof

/-- `u8` of R10: one buffer byte of DIN or DOUT. -/
abbrev U8 := BitVec 8

/-- `u16` of R10: the register, a header word, a mask. Bit 0 is the least significant bit (R9). -/
abbrev U16 := BitVec 16

/-- `u32` of R10: one command word. -/
abbrev U32 := BitVec 32

end Sys2Proof
end

