-- ==== Sys2Proof/Syntax.lean ====
section
/-! DEFINITION. The commands of the block (30_encoding.md R61 to R63, R75): one constructor of `Instr` per row of
spec/opcode_table.json, with the operands of R62; the formats, the row type of the opcode table, and the
pseudo-commands. -/

namespace Sys2Proof

/-- A command with its operands, as R62 assembles them. DIN of BLK.WR is no operand field: it stands on a port of
its own (R60, R71). -/
inductive Instr where
  /-- REG.RD (R80). -/
  | regRd
  /-- REG.WR v (R81). -/
  | regWr (v : U16)
  /-- REG.SET m (R82). -/
  | regSet (m : U16)
  /-- REG.CLR m (R83). -/
  | regClr (m : U16)
  /-- ID.DUMP len (R104): len is an unsigned integer. -/
  | idDump (len : Nat)
  /-- CH.RD ch (R120). -/
  | chRd (ch : Fin 16)
  /-- CH.WR ch, value (R121). -/
  | chWr (ch : Fin 16) (value : Bool)
  /-- BLK.RD size (R123): size is a signed integer. -/
  | blkRd (size : Int)
  /-- BLK.WR size (R126): size is a signed integer. -/
  | blkWr (size : Int)
  /-- INIT nochk (R150): `true` is NOCHK = 1, the identity check disabled (R69). -/
  | init (nochk : Bool)
  /-- EXIT (R154). -/
  | exit
  deriving DecidableEq, Repr

/-- The eleven defined opcodes of R63. -/
inductive Op where
  | regRd | regWr | regSet | regClr | idDump | chRd | chWr | blkRd | blkWr | init | exit
  deriving DecidableEq, Repr

/-- The seven formats of R61. -/
inductive Format where
  /-- N: no operand. -/
  | n
  /-- V: 16-bit value. -/
  | v
  /-- L: buffer length. -/
  | l
  /-- C: channel. -/
  | c
  /-- CW: channel write. -/
  | cw
  /-- S: block size. -/
  | s
  /-- I: init. -/
  | i
  deriving DecidableEq, Repr

/-- One row of the opcode map of R63; `word` is its match. -/
structure Row where
  op       : Op
  mnemonic : String
  format   : Format
  word     : U32
  mask     : U32
  deriving DecidableEq, Repr

/-- Why a word spells no command. -/
inductive Reserved where
  /-- OP is 0xB to 0xF (R64). -/
  | opcode
  /-- a Z bit of a defined opcode is set (R65). -/
  | bits
  deriving DecidableEq, Repr

/-- The pseudo-commands of R75. -/
inductive Pseudo where
  | chSet (ch : Fin 16)
  | chClear (ch : Fin 16)
  | initCheck
  | initNocheck
  | regZero
  deriving DecidableEq, Repr

/-- A name an assembler line may begin with (R75): a command's mnemonic, or a pseudo-command's. -/
inductive AsmName where
  | command (o : Op)
  | chSet
  | chClear
  | initCheck
  | initNocheck
  | regZero
  deriving DecidableEq, Repr

end Sys2Proof
end

