-- ==== Sys2Proof/WellFormed.lean ====
section
/-! DEFINITION. Well-formedness: the operand ranges of 30_encoding.md R62 that the types of `Instr` do not fix
already. -/

namespace Sys2Proof

/-- LEN is 16 bits, unsigned (R62). -/
def lenOk (len : Nat) : Bool := decide (len ≤ 65535)

/-- SIZE is 16 bits, two's complement (R62). -/
def sizeOk (size : Int) : Bool := decide (-32768 ≤ size ∧ size ≤ 32767)

/-- An instruction is well formed when each operand is in the range its field can carry (R62). -/
def Instr.wf : Instr → Bool
  | .regRd      => true
  | .regWr _    => true
  | .regSet _   => true
  | .regClr _   => true
  | .idDump len => lenOk len
  | .chRd _     => true
  | .chWr _ _   => true
  | .blkRd size => sizeOk size
  | .blkWr size => sizeOk size
  | .init _     => true
  | .exit       => true

end Sys2Proof
end

