-- ==== Sys2Proof/Decode.lean ====
section
/-! DEFINITION. The decoder, total on every 32-bit word and rejecting by name (30_encoding.md R61 to R67), the encoder
written from the same table (R63, R75), and the pseudo-commands' expansions (R75). -/

namespace Sys2Proof

/-! ### Fields (R61, R62) -/

/-- OP = CMD[31:28] (R61). -/
def opField (w : U32) : BitVec 4 := w.extractLsb' 28 4

/-- V16 = CMD[15:0], taken as unsigned (R62). -/
def v16Field (w : U32) : U16 := w.extractLsb' 0 16

/-- LEN = zext(CMD[15:0]) (R62). -/
def lenField (w : U32) : Nat := (w.extractLsb' 0 16).toNat

/-- CH = CMD[3:0], unsigned (R62). -/
def chField (w : U32) : Fin 16 := ⟨(w.extractLsb' 0 4).toNat, (w.extractLsb' 0 4).isLt⟩

/-- VAL = CMD[4] (R62). -/
def valField (w : U32) : Bool := w.getLsbD 4

/-- SIZE = sext(CMD[15:0]), two's complement (R62). -/
def sizeField (w : U32) : Int := (w.extractLsb' 0 16).toInt

/-- NOCHK = CMD[0] (R62). -/
def nochkField (w : U32) : Bool := w.getLsbD 0

/-! ### The opcode map (R63) -/

/-- The bits of CMD[27:0] a format does not name: its Z bits, reserved and zero (R61, R65). -/
def Format.zMask : Format → U32
  | .n  => 0x0FFFFFFF#32
  | .v  => 0x0FFF0000#32
  | .l  => 0x0FFF0000#32
  | .c  => 0x0FFFFFF0#32
  | .cw => 0x0FFFFFE0#32
  | .s  => 0x0FFF0000#32
  | .i  => 0x0FFFFFFE#32

/-- The rows of R63, in its order. -/
def opcodeTable : List Row :=
  [ ⟨.regRd,  "REG.RD",  .n,  0x00000000#32, 0xFFFFFFFF#32⟩,
    ⟨.regWr,  "REG.WR",  .v,  0x10000000#32, 0xFFFF0000#32⟩,
    ⟨.regSet, "REG.SET", .v,  0x20000000#32, 0xFFFF0000#32⟩,
    ⟨.regClr, "REG.CLR", .v,  0x30000000#32, 0xFFFF0000#32⟩,
    ⟨.idDump, "ID.DUMP", .l,  0x40000000#32, 0xFFFF0000#32⟩,
    ⟨.chRd,   "CH.RD",   .c,  0x50000000#32, 0xFFFFFFF0#32⟩,
    ⟨.chWr,   "CH.WR",   .cw, 0x60000000#32, 0xFFFFFFE0#32⟩,
    ⟨.blkRd,  "BLK.RD",  .s,  0x70000000#32, 0xFFFF0000#32⟩,
    ⟨.blkWr,  "BLK.WR",  .s,  0x80000000#32, 0xFFFF0000#32⟩,
    ⟨.init,   "INIT",    .i,  0x90000000#32, 0xFFFFFFFE#32⟩,
    ⟨.exit,   "EXIT",    .n,  0xA0000000#32, 0xFFFFFFFF#32⟩ ]

/-- A word selects a row when `(w & mask) = match` (R63). -/
def Row.selects (r : Row) (w : U32) : Bool := decide (w &&& r.mask = r.word)

/-- The operands of a row's command (R62). -/
def Op.operands (w : U32) : Op → Instr
  | .regRd  => .regRd
  | .regWr  => .regWr (v16Field w)
  | .regSet => .regSet (v16Field w)
  | .regClr => .regClr (v16Field w)
  | .idDump => .idDump (lenField w)
  | .chRd   => .chRd (chField w)
  | .chWr   => .chWr (chField w) (valField w)
  | .blkRd  => .blkRd (sizeField w)
  | .blkWr  => .blkWr (sizeField w)
  | .init   => .init (nochkField w)
  | .exit   => .exit

/-- The decoder, in the order of R67: the opcode is checked before the reserved bits. -/
def decode (w : U32) : Except Reserved Instr :=
  if 0xB#4 ≤ opField w then .error .opcode
  else match opcodeTable.find? (fun r => r.selects w) with
    | none   => .error .bits
    | some r => .ok (r.op.operands w)

/-- The decoder on a word numbered as spec/opcode_table.json numbers it. Every row is one 32-bit command word (R70), so
a longer number is no command. -/
def decodeTableWord (nbits w : Nat) : Option Instr :=
  if w % 2 ^ nbits < 2 ^ 32 then (decode (BitVec.ofNat 32 (w % 2 ^ nbits))).toOption else none

/-! ### The encoder (R63, R75) -/

/-- One bit as a command word. -/
def bitWord (b : Bool) : U32 := if b then 1#32 else 0#32

/-- The opcode a command is spelled with (R63). -/
def Instr.op : Instr → Op
  | .regRd    => .regRd
  | .regWr _  => .regWr
  | .regSet _ => .regSet
  | .regClr _ => .regClr
  | .idDump _ => .idDump
  | .chRd _   => .chRd
  | .chWr _ _ => .chWr
  | .blkRd _  => .blkRd
  | .blkWr _  => .blkWr
  | .init _   => .init
  | .exit     => .exit

/-- The word of a well-formed command, column "word" of R75. -/
def encode : Instr → U32
  | .regRd         => 0x00000000#32
  | .regWr v       => 0x10000000#32 ||| v.setWidth 32
  | .regSet m      => 0x20000000#32 ||| m.setWidth 32
  | .regClr m      => 0x30000000#32 ||| m.setWidth 32
  | .idDump len    => 0x40000000#32 ||| (BitVec.ofNat 16 len).setWidth 32
  | .chRd ch       => 0x50000000#32 ||| BitVec.ofNat 32 ch.val
  | .chWr ch value => 0x60000000#32 ||| (bitWord value <<< 4) ||| BitVec.ofNat 32 ch.val
  | .blkRd size    => 0x70000000#32 ||| (BitVec.ofInt 16 size).setWidth 32
  | .blkWr size    => 0x80000000#32 ||| (BitVec.ofInt 16 size).setWidth 32
  | .init nochk    => 0x90000000#32 ||| bitWord nochk
  | .exit          => 0xA0000000#32

/-! ### Assembler syntax (R75) -/

/-- The expansion of a pseudo-command (R75). -/
def Pseudo.expand : Pseudo → Instr
  | .chSet ch    => .chWr ch true
  | .chClear ch  => .chWr ch false
  | .initCheck   => .init false
  | .initNocheck => .init true
  | .regZero     => .regWr 0x0000#16

/-- The 16 bytes of DIN from a BLK.WR line's list: missing entries are 0x00 (R75). The assembler refuses a list of more
than 16 entries. -/
def dinOfList (l : List U8) : Vector U8 16 := Vector.ofFn fun i => l.getD i.val 0x00#8

end Sys2Proof
end

