-- ==== Sys2Proof/Config.lean ====
section
/-! DEFINITION. What an implementation of the block fixes: the fixed parameters of R6 with their values, the open
parameters of R7 as data a state carries, and the constants without a body that stand for values no source gives
(R7, R8). -/

namespace Sys2Proof.Config

/-! ### Fixed parameters (R6) -/

/-- CH_TYPE of R6. -/
inductive ChannelType where
  | binary
  deriving DecidableEq, Repr

/-- CH_DIR of R6: the register is readable and writable (90_conflicts.md C5). -/
inductive ChannelDirection where
  | bidirectional
  deriving DecidableEq, Repr

/-- N_CH: how many channels the module has. -/
@[simp] abbrev nCh : Nat := 16
/-- CH_WIDTH: bits per channel. -/
@[simp] abbrev chWidth : Nat := 1
/-- CH_TYPE. -/
def chType : ChannelType := .binary
/-- CH_DIR. -/
def chDir : ChannelDirection := .bidirectional
/-- REG_WIDTH: bits of the output register. -/
@[simp] abbrev regWidth : Nat := 16
/-- IDH_BYTES: bytes of the identity header (R105). -/
@[simp] abbrev idhBytes : Nat := 128
/-- IDH_WORDS: 16-bit words of the identity header. -/
@[simp] abbrev idhWords : Nat := 64
/-- N_MODEL_CODES: how many model codes are accepted (R103). -/
@[simp] abbrev nModelCodes : Nat := 3
/-- AS_COUNT: address spaces (R40). -/
@[simp] abbrev asCount : Nat := 1
/-- AS_BYTES: bytes of the one address space (R40). -/
@[simp] abbrev asBytes : Nat := 256
/-- AS_ADDR_WIDTH: bits of an address in it. -/
@[simp] abbrev asAddrWidth : Nat := 8
/-- The bus data widths the module supports (90_conflicts.md C2). -/
def busWidths : List Nat := [8, 16]
/-- The bus data width the block uses (90_conflicts.md C2). -/
@[simp] abbrev busWidthUsed : Nat := 16
/-- BLK_MAX: the largest block size. -/
@[simp] abbrev blkMax : Nat := 16
/-- Interrupt sources: the hardware has none (R181). -/
@[simp] abbrev interruptSources : Nat := 0

/-! ### Open parameters (R7) -/

/-- One byte of the 16-bit register. -/
inductive RegByte where
  | low
  | high
  deriving DecidableEq, Repr, Inhabited

/-- P_D8_LANES of R7: which byte of the register an 8-bit access at P_REG_OFFSET (`atEven`) or at P_REG_OFFSET+1
(`atOdd`) reaches. No rule uses it (R48), since the block makes no 8-bit access (R46). -/
structure D8Lanes where
  atEven : RegByte
  atOdd  : RegByte
  deriving DecidableEq, Repr, Inhabited

/-- No two of three words are the same. -/
def pairwiseDistinct (a b c : U16) : Bool := decide (a ≠ b ∧ a ≠ c ∧ b ≠ c)

/-- P_MODEL_CODES of R7 and R103: the accepted model codes, exactly three distinct ones. The proof field keeps an
instance with fewer from being written down (notes/assumptions/16.md). -/
structure ModelCodes where
  codeA    : U16
  codeB    : U16
  codeC    : U16
  distinct : pairwiseDistinct codeA codeB codeC = true
  deriving DecidableEq, Repr

/-- The codes chosen by a first word and two steps from it around the 2^16 words: codeB is any of the other 65535 words,
codeC any of the 65534 that remain. Every instance arises so: `modelCodesOf_surjective`. -/
def modelCodesOf (a : U16) (b : Fin 65535) (c : Fin 65534) : ModelCodes where
  codeA    := a
  codeB    := a + BitVec.ofNat 16 (b.val + 1)
  codeC    := a + BitVec.ofNat 16 (if c.val < b.val then c.val + 1 else c.val + 2)
  distinct := by
    obtain ⟨b, hb⟩ := b
    obtain ⟨c, hc⟩ := c
    simp only [pairwiseDistinct, decide_eq_true_eq]
    split <;> refine ⟨?_, ?_, ?_⟩ <;> bv_omega

/-- P_REG_OFFSET of R7. `word k` is the k-th 16-bit word of the 256-byte space, so the byte offset 2k, which meets R7's
constraint whichever k is; `byte n` is any number as it stands, so that an instance that breaks the constraint (odd, or
above 254) can be written down and is refused (R46). -/
inductive RegOffset where
  | word (k : Fin 128)
  | byte (n : Nat)
  deriving DecidableEq, Repr

/-- The open parameters of R7 that a command consults, taken as an argument: a state carries them and no step changes
them. P_IDH stands in the state itself as IDH (R23). -/
structure Params where
  regOffset  : RegOffset
  magic      : U16
  modelCodes : ModelCodes
  d8Lanes    : D8Lanes
  deriving DecidableEq, Repr

/-! ### Values no source gives

Each is a constant WITHOUT a body: nothing can be proved of its value (notes/assumptions/1.md, 2.md, 3.md). -/

/-- P_REG_OFFSET (R7), as the word index of a legal offset. -/
opaque regWord : Fin 128
/-- P_MAGIC (R7). -/
opaque magic : U16
/-- P_MODEL_CODES (R7): the first code. -/
opaque modelCodeA : U16
/-- P_MODEL_CODES (R7): which of the words other than the first code the second is. -/
opaque modelCodeB : Fin 65535
/-- P_MODEL_CODES (R7): which of the words other than the first two codes the third is. -/
opaque modelCodeC : Fin 65534
/-- P_D8_LANES (R7). -/
opaque d8Lanes : D8Lanes
/-- P_IDH (R7): word k of the identity header. -/
opaque idhWord : Fin 64 → U16
/-- d_reg0 of R8: REG's value at power-up. -/
opaque dReg0 : U16
/-- d_alloc of R8 for a command outside the host's list, by program index. -/
opaque dAlloc : Nat → Bool
/-- d_bus of R8 for a command outside the host's list, by program index: the first access that does not complete. -/
opaque dBusFaultAt : Nat → Option Nat
/-- What REG holds after a faulted write (R47) for a command outside the host's list, by program index. -/
opaque dRegAfterFault : Nat → U16
/-- What stands on DIN (R60) for a command outside the host's list, by program index and byte. -/
opaque dDin : Nat → Fin 16 → U8

/-- The open parameters of this machine, all of them free. -/
def params : Params where
  regOffset  := .word regWord
  magic      := magic
  modelCodes := modelCodesOf modelCodeA modelCodeB modelCodeC
  d8Lanes    := d8Lanes

/-- P_IDH of this machine. -/
def idh : Vector U16 64 := Vector.ofFn idhWord

end Sys2Proof.Config
end

