-- ==== Sys2Proof/Machine/State.lean ====
section
/-! DEFINITION. Everything the spec gives the block as state (10_state.md), the host's command list with the inputs that
come with each command (R8, R28, R60), the ways a step can stop, and the state at power-up. -/

namespace Sys2Proof.Machine

/-- LSTATE (R24): READY stands for "the Handle exists". -/
inductive LState where
  | uninit
  | ready
  deriving DecidableEq, Repr

/-- FAULT (R26), the sticky fault state. -/
inductive FaultState where
  | none
  | busFault
  deriving DecidableEq, Repr

/-- The reasons of R174 for which a command is refused. -/
inductive RefuseReason where
  /-- OP is 0xB to 0xF (R64). -/
  | reservedOpcode
  /-- a Z bit is set (R65). -/
  | reservedBits
  /-- INIT while READY, or any other command while UNINIT (R66). -/
  | wrongState
  /-- P_REG_OFFSET breaks R7 (R46). -/
  | badParameter
  deriving DecidableEq, Repr

/-- RSP.STATUS (R73), by name; `Status.code` in Flags.lean gives the 4-bit numbers. -/
inductive Status where
  | ok
  | invalidSize
  | badMagic
  | unknownModel
  | bufferTooSmall
  | allocFail
  deriving DecidableEq, Repr

/-- The response latch RSP (R29, R72). COUNT is in 0..16, DOUT holds at most 16 bytes and DOUT16 none or 64 words:
`Response.wf` in Safety.lean, kept by every step. -/
structure Response where
  status : Status
  data   : U16
  count  : Nat
  dout   : List U8
  dout16 : List U16
  deriving DecidableEq, Repr

/-- One register transaction (R30). -/
inductive BusEntry where
  /-- a MemRead of REG that returned v. -/
  | rd (v : U16)
  /-- a MemWrite of v to REG. -/
  | wr (v : U16)
  deriving DecidableEq, Repr

/-- What comes to the block from outside with one command: the port DIN (R60) and the draws of R8 that belong to this
command's step. The draws d_bus are held as the number of the first access of the command, counted from 0, that does not
complete (`none`: all complete); no access follows a faulted one (R175), so this says every draw that is made.
`regAfterFault` is what REG holds if the access that does not complete is a write (R47: any value). -/
structure Inputs where
  din           : Vector U8 16
  alloc         : Bool
  busFaultAt    : Option Nat
  regAfterFault : U16
  deriving DecidableEq, Repr

/-- One command of the host: the word CMD (R60) and its inputs. -/
structure Command where
  cmd    : U32
  inputs : Inputs
  deriving DecidableEq, Repr

/-- The state of the block and of its device (R32), the open parameters (R7), and the host's command list (R28). -/
structure State where
  /-- REG (R21), bit i is channel i (R22). -/
  reg     : U16
  /-- IDH (R23). -/
  idh     : Vector U16 64
  /-- LSTATE (R24). -/
  lstate  : LState
  /-- IDCHK (R25): `true` is 1, enabled. -/
  idchk   : Bool
  /-- FAULT (R26). -/
  fault   : FaultState
  /-- REFUSED (R27) with its reason (R174): `none` is REFUSED = false (notes/assumptions/6.md). -/
  refused : Option RefuseReason
  /-- RSP (R29). -/
  rsp     : Response
  /-- BUSLOG (R30), oldest first. -/
  busLog  : List BusEntry
  /-- The program index (R28): how many commands of the list have completed. -/
  pc      : Nat
  /-- The open parameters of R7. -/
  params  : Config.Params
  /-- The host's list of commands (R28, R60). -/
  program : List Command
  deriving DecidableEq, Repr

/-- Why the machine has no step because of a fault. -/
inductive Fault where
  /-- Raised by `step` when FAULT is already BusFault: no later command has a step (R26, R175). Safe: the run has ended
  in the terminal state the spec gives. -/
  | busFault
  deriving DecidableEq, Repr

/-- Why the machine has no step for another reason. -/
inductive Refusal where
  /-- Raised by an arm of `exec` whose instruction has no meaning yet. No arm of this model answers it. Safe. -/
  | notModelled (mnemonic : String)
  /-- Raised by `step` when REFUSED is already true: no later command has a step (R27, R176). Safe: a run with
  REFUSED = true satisfies no claim. -/
  | refusedEarlier (reason : RefuseReason)
  /-- Raised by `step` when the program index is past the host's list: there is no command to perform, the run has ended
  (R28, R197). Safe. -/
  | noCommand
  deriving DecidableEq, Repr

/-- RSP at power-up: STATUS = OK, DATA = 0, COUNT = 0, DOUT = [], DOUT16 = [] (R29). -/
def Response.cleared : Response := ⟨.ok, 0x0000#16, 0, [], []⟩

/-- The power-up state (R32, R190) for given open parameters, header, draw d_reg0 and command list. -/
def State.powerUp (p : Config.Params) (idh : Vector U16 64) (dReg0 : U16) (program : List Command) : State where
  reg     := dReg0
  idh     := idh
  lstate  := .uninit
  idchk   := true
  fault   := .none
  refused := none
  rsp     := Response.cleared
  busLog  := []
  pc      := 0
  params  := p
  program := program

/-- The machine right after reset: power-up with every open value free (Config.lean) and no command issued
(notes/assumptions/1.md, 2.md). -/
def State.reset : State := State.powerUp Config.params Config.idh Config.dReg0 []

end Sys2Proof.Machine
end

