-- ==== Sys2Proof/Machine/Ops.lean ====
section
/-! DEFINITION. The named operations every command is built from: the inputs of the command in progress, the updates of
the state, the three device-access primitives of 20_memory.md with the bus fault (R42, R43, R45, R47, R175), refusing a
command (R176), and the checks that come before a command's own rule (R66, R67).

A command is written as its pseudocode: an access takes what is done after it as a function, and a bus fault drops that
function, so that the command stops at the faulting access (R175). The first argument of an access is its number within
the command, counted from 0 in the order of R74: it picks the access's draw d_bus (R47). -/

namespace Sys2Proof.Machine

/-! ### The command in progress and its inputs -/

/-- The command the program index points at (R28), if the host's list has one there. -/
def State.fetch (s : State) : Option Command := s.program[s.pc]?

/-- The inputs where the host's list has no command at index n: all of them free (Config.lean). `step` never performs
a command there. -/
def Inputs.absent (n : Nat) : Inputs where
  din           := Vector.ofFn (Config.dDin n)
  alloc         := Config.dAlloc n
  busFaultAt    := Config.dBusFaultAt n
  regAfterFault := Config.dRegAfterFault n

/-- What stands at the block's inputs while the command at the program index is performed (R8, R60). -/
def State.inputs (s : State) : Inputs :=
  match s.fetch with
  | some c => c.inputs
  | none   => Inputs.absent s.pc

/-- The draw d_bus of the command's access number k (R8, R47): whether it completes. -/
def Inputs.dBus (x : Inputs) (k : Nat) : Bool := decide (x.busFaultAt ≠ some k)

/-- Put command c at index n of a list; places before n that the list does not have are filled with c too. -/
def putAt (c : Command) : List Command → Nat → List Command
  | [],      0     => [c]
  | [],      n + 1 => c :: putAt c [] n
  | _ :: t,  0     => c :: t
  | x :: t,  n + 1 => x :: putAt c t n

/-- The inputs a command word is placed with: those of the host's list at the program index if it has a command there,
else storage available and every access completing; DIN is zero (notes/assumptions/4.md). -/
def State.placedInputs (s : State) : Inputs :=
  match s.fetch with
  | some c => { c.inputs with din := Vector.replicate 16 0x00#8 }
  | none   => ⟨Vector.replicate 16 0x00#8, true, none, 0x0000#16⟩

/-! ### Updates of the state -/

/-- One more register transaction (R30). -/
def State.logged (s : State) (e : BusEntry) : State := { s with busLog := s.busLog ++ [e] }

/-- REG <- v (R43). -/
def State.regWritten (s : State) (v : U16) : State := { s with reg := v }

/-- FAULT <- BusFault (R175): no response, and everything already done stays done. -/
def State.busFault (s : State) : State := { s with fault := .busFault }

/-- A faulted MemWrite (R47): REG is unspecified. -/
def State.busFaultOnWrite (s : State) : State := (s.regWritten s.inputs.regAfterFault).busFault

/-- REFUSED <- true, and nothing else changes (R176). -/
def State.refuse (s : State) (r : RefuseReason) : State := { s with refused := some r }

/-- IDCHK <- chk and LSTATE <- READY, as INIT does on success (R150). -/
def State.bound (s : State) (chk : Bool) : State := { s with idchk := chk, lstate := .ready }

/-- LSTATE <- UNINIT and IDCHK <- 1, as EXIT does (R154). -/
def State.released (s : State) : State := { s with lstate := .uninit, idchk := true }

/-- RSP <- r, and the program index advances, as it does when a command completes with a response (R28, R29). -/
def State.latched (s : State) (r : Response) : State := { s with rsp := r, pc := s.pc + 1 }

/-! ### Device accesses -/

/-- MemRead(P_REG_OFFSET, 2) as access number k (R42). -/
def memRead (k : Nat) (s : State) (after : U16 → State → State) : State :=
  if s.inputs.dBus k then after s.reg (s.logged (.rd s.reg)) else s.busFault

/-- MemWrite(P_REG_OFFSET, 2, v) as access number k (R43). -/
def memWrite (k : Nat) (v : U16) (s : State) (after : State → State) : State :=
  if s.inputs.dBus k then after ((s.regWritten v).logged (.wr v)) else s.busFaultOnWrite

/-- The read/modify/write of R53 and R194: access 0 reads r, access 1 writes f r. -/
def readModifyWrite (f : U16 → U16) (s : State) (after : State → State) : State :=
  memRead 0 s fun r s => memWrite 1 (f r) s after

/-- P_IDH[j] (R16). Every use has j in 0..63. -/
def State.idhWord (s : State) (j : Nat) : U16 := s.idh.toList.getD j 0x0000#16

/-- IdRead(j) as access number k (R45): no side effect, not in BUSLOG. -/
def idRead (k j : Nat) (s : State) (after : U16 → State → State) : State :=
  if s.inputs.dBus k then after (s.idhWord j) s else s.busFault

/-- IdRead(j), IdRead(j+1), ... for n words, as accesses number j, j+1, ...; `out` gathers the words (R104). -/
def idReadLoop (after : List U16 → State → State) : Nat → Nat → List U16 → State → State
  | 0,     _, out, s => after out s
  | n + 1, j, out, s => idRead j j s fun w s => idReadLoop after n (j + 1) (out ++ [w]) s

/-! ### The constraints on the open parameters (R7) -/

/-- P_REG_OFFSET as a byte offset. -/
def regOffsetByte : Config.RegOffset → Nat
  | .word k => 2 * k.val
  | .byte n => n

/-- P_REG_OFFSET is even and in 0..254 (R7): `regOffsetLegal_iff` says so of both forms. -/
def regOffsetLegal : Config.RegOffset → Bool
  | .word _ => true
  | .byte n => decide (n % 2 = 0 ∧ n ≤ 254)

/-! ### Checks before a command's own rule -/

/-- The refusals of R67 that come after decoding, in its order: the command needs LSTATE = `need` (R66), and a legal
P_REG_OFFSET, since every row of the table makes a device access (R46, R74; notes/assumptions/8.md). -/
def perform (need : LState) (s : State) (rule : State → State) : State :=
  if s.lstate ≠ need then s.refuse .wrongState
  else if regOffsetLegal s.params.regOffset = false then s.refuse .badParameter
  else rule s

/-- The refusal a word that spells no command takes (R64, R65). -/
def reservedReason : Reserved → RefuseReason
  | .opcode => .reservedOpcode
  | .bits   => .reservedBits

end Sys2Proof.Machine
end

