-- ==== Sys2Proof/Machine/Flags.lean ====
section
/-! DEFINITION. The block has no condition flags (10_state.md R29): what a command reports goes to the response latch.
The status codes (R73) and the two ways a command completes, with OK or with an error status (R13, R72). -/

namespace Sys2Proof.Machine

/-- STATUS as its 4-bit code (R73). -/
def Status.code : Status → BitVec 4
  | .ok             => 0x0#4
  | .invalidSize    => 0x1#4
  | .badMagic       => 0x2#4
  | .unknownModel   => 0x3#4
  | .bufferTooSmall => 0x4#4
  | .allocFail      => 0x5#4

/-- `respond(STATUS=OK, ...)` with nothing produced. -/
def respondOk (s : State) : State := s.latched ⟨.ok, 0x0000#16, 0, [], []⟩

/-- `respond(STATUS=OK, DATA=v, ...)` (R80, R120). -/
def respondData (v : U16) (s : State) : State := s.latched ⟨.ok, v, 0, [], []⟩

/-- `respond(STATUS=OK, COUNT=n, DOUT=out, ...)` (R123, R126). -/
def respondBlock (n : Nat) (out : List U8) (s : State) : State := s.latched ⟨.ok, 0x0000#16, n, out, []⟩

/-- `respond(STATUS=OK, DOUT16=out, ...)` (R104). -/
def respondDump (out : List U16) (s : State) : State := s.latched ⟨.ok, 0x0000#16, 0, [], out⟩

/-- `raise e` (R13): completes with that error status and no further effect; the other fields are cleared (R72). -/
def raise (e : Status) (s : State) : State := s.latched ⟨e, 0x0000#16, 0, [], []⟩

end Sys2Proof.Machine
end

