-- ==== Sys2Proof/Machine/Operands.lean ====
section
/-! DEFINITION. What commands compute from their operands: the helpers of 00_scope.md R14 between a byte array and the
register word, channel masks (R120, R121), and the operand checks of R124 and R104. -/

namespace Sys2Proof.Machine

/-- `bool(b)` of R14 and R125: a byte is set when it is not zero. -/
def byteSet (b : U8) : Bool := decide (b ≠ 0x00#8)

/-- `lowmask(n)` of R14. -/
def lowmask (n : Nat) : U16 := BitVec.ofNat 16 ((1 <<< n) - 1)

/-- A bit as a 16-bit word. -/
def bit16 (b : Bool) : U16 := if b then 0x0001#16 else 0x0000#16

/-- A bit as a byte: exactly 0x00 or 0x01 (R123). -/
def bit8 (b : Bool) : U8 := if b then 0x01#8 else 0x00#8

/-- `pack(buf, n)` of R14: the OR over i < n of bool(buf[i]) << i. -/
def pack (buf : List U8) : Nat → U16
  | 0     => 0x0000#16
  | n + 1 => pack buf n ||| (bit16 (byteSet (buf.getD n 0x00#8)) <<< n)

/-- `unpack(r, n)` of R14: bit i of r as byte i, for i < n. -/
def unpack (r : U16) (n : Nat) : List U8 := (List.range n).map fun i => bit8 (r.getLsbD i)

/-- `trunc_16(1 << ch)` of R121. -/
def chMask (ch : Fin 16) : U16 := BitVec.ofNat 16 (1 <<< ch.val)

/-- `(r >> ch) & 1` of R120. -/
def chBit (r : U16) (ch : Fin 16) : U16 := (r >>> ch.val) &&& 0x0001#16

/-- size < 0 or size > 16, the InvalidSize check of R124. -/
def sizeInvalid (size : Int) : Bool := decide (size < 0 ∨ size > (Config.blkMax : Int))

/-- The new register word of BLK.WR (R126): the low `n` bits from the buffer, the others from r. -/
def blockWord (r : U16) (buf : List U8) (n : Nat) : U16 := (r &&& ~~~(lowmask n)) ||| pack buf n

end Sys2Proof.Machine
end

