-- ==== Sys2Proof/Machine/Channel.lean ====
section
/-! DEFINITION. The channel codec: CH.RD, CH.WR, BLK.RD, BLK.WR (42_channel_codec.md). -/

namespace Sys2Proof.Machine

/-- CH.RD ch (R120). -/
def execChRd (ch : Fin 16) (s : State) : Host.Outcome State Fault Refusal :=
  .next <| perform .ready s fun s =>
    memRead 0 s fun r s => respondData (chBit r ch) s

/-- CH.WR ch, value (R121). -/
def execChWr (ch : Fin 16) (value : Bool) (s : State) : Host.Outcome State Fault Refusal :=
  .next <| perform .ready s fun s =>
    readModifyWrite (fun r => if value then r ||| chMask ch else r &&& ~~~(chMask ch)) s fun s => respondOk s

/-- BLK.RD size (R123): the size check comes before the read (R124). -/
def execBlkRd (size : Int) (s : State) : Host.Outcome State Fault Refusal :=
  .next <| perform .ready s fun s =>
    if sizeInvalid size then raise .invalidSize s
    else memRead 0 s fun r s => respondBlock size.toNat (unpack r size.toNat) s

/-- BLK.WR size (R126): the buffer is DIN[0..size-1] (R71), and channels from `size` up keep their value. -/
def execBlkWr (size : Int) (s : State) : Host.Outcome State Fault Refusal :=
  .next <| perform .ready s fun s =>
    if sizeInvalid size then raise .invalidSize s
    else
      readModifyWrite (fun r => blockWord r s.inputs.din.toList size.toNat) s fun s => respondBlock size.toNat [] s

end Sys2Proof.Machine
end

