-- ==== Sys2Proof/Machine/Identity.lean ====
section
/-! DEFINITION. The identity validator: Validate, the procedure INIT calls, and ID.DUMP (41_identity.md). -/

namespace Sys2Proof.Machine

/-- `w in P_MODEL_CODES` (R100, R103). -/
def modelAccepted (c : Config.ModelCodes) (w : U16) : Bool :=
  decide (w = c.codeA ∨ w = c.codeB ∨ w = c.codeC)

/-- What Validate returns for the two words it has read: the magic word is checked first (R100, R101). -/
def identityStatus (p : Config.Params) (w0 w1 : U16) : Status :=
  if w0 ≠ p.magic then .badMagic
  else if modelAccepted p.modelCodes w1 = false then .unknownModel
  else .ok

/-- Validate (R100): both words are read, as the command's accesses 0 and 1, before either is checked. -/
def validate (s : State) (after : Status → State → State) : State :=
  idRead 0 0 s fun w0 s =>
  idRead 1 1 s fun w1 s => after (identityStatus s.params w0 w1) s

/-- ID.DUMP len (R104): BufferTooSmall before any access when len < 128, else all 64 words of the header. -/
def execIdDump (len : Nat) (s : State) : Host.Outcome State Fault Refusal :=
  .next <| perform .ready s fun s =>
    if len < Config.idhBytes then raise .bufferTooSmall s
    else idReadLoop respondDump Config.idhWords 0 [] s

end Sys2Proof.Machine
end

