-- ==== Sys2Proof/Machine/Lifecycle.lean ====
section
/-! DEFINITION. INIT and EXIT (43_lifecycle.md). -/

namespace Sys2Proof.Machine

/-- The end of a successful INIT (R150): REG <- 0 as access number k, then IDCHK and LSTATE. -/
def initFinish (k : Nat) (chk : Bool) (s : State) : State :=
  memWrite k 0x0000#16 s fun s => respondOk (s.bound chk)

/-- INIT nochk (R150): allocation (R152), the identity check unless it is disabled (R102), then the register reset. -/
def execInit (nochk : Bool) (s : State) : Host.Outcome State Fault Refusal :=
  .next <| perform .uninit s fun s =>
    if s.inputs.alloc = false then raise .allocFail s
    else if nochk then initFinish 0 false s
    else validate s fun st s => if st ≠ .ok then raise st s else initFinish 2 true s

/-- EXIT (R154). -/
def execExit (s : State) : Host.Outcome State Fault Refusal :=
  .next <| perform .ready s fun s =>
    memWrite 0 0x0000#16 s fun s => respondOk s.released

end Sys2Proof.Machine
end

