-- ==== Sys2Proof/Machine/Register.lean ====
section
/-! DEFINITION. The register access primitives as commands: REG.RD, REG.WR, REG.SET, REG.CLR (40_register_access.md). -/

namespace Sys2Proof.Machine

/-- REG.RD (R80). -/
def execRegRd (s : State) : Host.Outcome State Fault Refusal :=
  .next <| perform .ready s fun s =>
    memRead 0 s fun r s => respondData r s

/-- REG.WR v (R81). -/
def execRegWr (v : U16) (s : State) : Host.Outcome State Fault Refusal :=
  .next <| perform .ready s fun s =>
    memWrite 0 v s fun s => respondOk s

/-- REG.SET m (R82): "register |= mask". -/
def execRegSet (m : U16) (s : State) : Host.Outcome State Fault Refusal :=
  .next <| perform .ready s fun s =>
    readModifyWrite (fun r => r ||| m) s fun s => respondOk s

/-- REG.CLR m (R83): "register &= ~mask". -/
def execRegClr (m : U16) (s : State) : Host.Outcome State Fault Refusal :=
  .next <| perform .ready s fun s =>
    readModifyWrite (fun r => r &&& ~~~m) s fun s => respondOk s

end Sys2Proof.Machine
end

