-- ==== Sys2Proof/Machine/Dispatch.lean ====
section
/-! DEFINITION. The meaning of each command, one arm per row of spec/opcode_table.json. -/

namespace Sys2Proof.Machine

/-- The command's effect on a state in which it is performed. -/
def exec (i : Instr) (s : State) : Host.Outcome State Fault Refusal :=
  match i with
  | .regRd => Sys2Proof.Machine.execRegRd s
  | .regWr v => Sys2Proof.Machine.execRegWr v s
  | .regSet m => Sys2Proof.Machine.execRegSet m s
  | .regClr m => Sys2Proof.Machine.execRegClr m s
  | .idDump len => Sys2Proof.Machine.execIdDump len s
  | .chRd ch => Sys2Proof.Machine.execChRd ch s
  | .chWr ch value => Sys2Proof.Machine.execChWr ch value s
  | .blkRd size => Sys2Proof.Machine.execBlkRd size s
  | .blkWr size => Sys2Proof.Machine.execBlkWr size s
  | .init nochk => Sys2Proof.Machine.execInit nochk s
  | .exit => Sys2Proof.Machine.execExit s

end Sys2Proof.Machine
end

