-- ==== Sys2Proof/Machine/Sequence.lean ====
section
/-! DEFINITION. A command word from decoding on (30_encoding.md R67). -/

namespace Sys2Proof.Machine

/-- Decode the word of command c and perform it, or refuse it: a reserved word changes nothing but REFUSED (R64, R65,
R176), and that is the next state (notes/assumptions/5.md). -/
def performCommand (c : Command) (s : State) : Host.Outcome State Fault Refusal :=
  match decode c.cmd with
  | .error e => .next (s.refuse (reservedReason e))
  | .ok i => exec i s

end Sys2Proof.Machine
end

