-- ==== Sys2Proof/Machine/Step.lean ====
section
/-! DEFINITION. One step of the block (30_encoding.md R67): the command at the program index, from the check that the
block is neither faulted nor refused to the command's own rule; and how a command word is placed for the next step. -/

namespace Sys2Proof.Machine

/-- One command of the host performed to its end (R67). With FAULT or REFUSED already set there is no step (R175, R176),
and none past the end of the host's list. -/
def step (s : State) : Host.Outcome State Fault Refusal :=
  match s.fault with
  | .busFault => .fault .busFault
  | .none =>
    match s.refused with
    | some r => .refused (.refusedEarlier r)
    | none =>
      match s.fetch with
      | none => .refused .noCommand
      | some c => performCommand c s

/-- The host issues the command word w next: it is placed in the host's list at the program index. Nothing else changes:
LSTATE among the rest, so that a command that needs READY is refused from reset, as R66 says
(notes/assumptions/4.md). -/
def State.withFetchWord (s : State) (nbits w : Nat) : State :=
  { s with program := putAt ⟨BitVec.ofNat 32 (w % 2 ^ nbits), s.placedInputs⟩ s.program s.pc }

end Sys2Proof.Machine
end

