-- ==== Sys2Proof/Safety.lean ====
section
/-! DEFINITION. The terms claims are stated in: when a command is accepted, the accesses it makes (30_encoding.md R74), the
invariants, what a run ends with (70_reset_and_hazards.md R197). -/

namespace Sys2Proof.Machine

/-! ### When a command is performed -/

/-- The block is neither faulted nor refused, so a command has a step (R67). -/
abbrev State.running (s : State) : Prop := s.fault = .none ∧ s.refused = none

/-- LSTATE a command needs (R66). -/
def needs : Instr → LState
  | .regRd      => .ready
  | .regWr _    => .ready
  | .regSet _   => .ready
  | .regClr _   => .ready
  | .idDump _   => .ready
  | .chRd _     => .ready
  | .chWr _ _   => .ready
  | .blkRd _    => .ready
  | .blkWr _    => .ready
  | .init _     => .uninit
  | .exit       => .ready

/-- The command is refused for neither reason that comes after decoding (R67): LSTATE is the one it needs, and
P_REG_OFFSET is legal. -/
abbrev State.accepts (s : State) (i : Instr) : Prop :=
  s.lstate = needs i ∧ regOffsetLegal s.params.regOffset = true

/-- The header passes the identity check (R100, R23). -/
abbrev State.identityPasses (s : State) : Prop :=
  s.idhWord 0 = s.params.magic ∧ modelAccepted s.params.modelCodes (s.idhWord 1) = true

/-- The command n places after the program index is i, and its bus draws are all true. -/
def State.issues (s : State) (n : Nat) (i : Instr) : Prop :=
  ∃ x : Inputs, s.program[s.pc + n]? = some ⟨encode i, x⟩ ∧ x.busFaultAt = none

/-- The block can perform channel commands: READY, neither faulted nor refused, with a legal P_REG_OFFSET. -/
abbrev State.operational (s : State) : Prop :=
  s.running ∧ s.lstate = .ready ∧ regOffsetLegal s.params.regOffset = true

/-! ### Accesses (R74) -/

/-- One device access of a command. -/
inductive Access where
  | memRead
  | memWrite
  | idRead (j : Nat)
  deriving DecidableEq, Repr

/-- Whether an access is a register transaction, and of which kind: BUSLOG holds those only (R30, R45). -/
def Access.isTransaction : Access → Bool
  | .memRead  => true
  | .memWrite => true
  | .idRead _ => false

/-- The access a BUSLOG entry records. -/
def BusEntry.access : BusEntry → Access
  | .rd _ => .memRead
  | .wr _ => .memWrite

/-- The table of R74: the accesses a command makes when none faults, in order. -/
def footprint (s : State) : Instr → List Access
  | .regRd      => [.memRead]
  | .regWr _    => [.memWrite]
  | .regSet _   => [.memRead, .memWrite]
  | .regClr _   => [.memRead, .memWrite]
  | .idDump len => if len ≥ 128 then (List.range 64).map .idRead else []
  | .chRd _     => [.memRead]
  | .chWr _ _   => [.memRead, .memWrite]
  | .blkRd size => if 0 ≤ size ∧ size ≤ 16 then [.memRead] else []
  | .blkWr size => if 0 ≤ size ∧ size ≤ 16 then [.memRead, .memWrite] else []
  | .init nochk =>
    if s.inputs.alloc = false then []
    else if nochk = true then [.memWrite]
    else if s.idhWord 0 = s.params.magic ∧ modelAccepted s.params.modelCodes (s.idhWord 1) = true then
      [.idRead 0, .idRead 1, .memWrite]
    else [.idRead 0, .idRead 1]
  | .exit       => [.memWrite]

/-! ### Invariants -/

/-- What RSP may hold (R29, R72): COUNT in 0..16, DOUT at most 16 bytes, each 0x00 or 0x01, DOUT16 none or 64 words, and
with an error status everything else cleared. -/
structure Response.wf (r : Response) : Prop where
  count    : r.count ≤ 16
  dout     : r.dout.length ≤ 16
  bytes    : ∀ b ∈ r.dout, b = 0x00#8 ∨ b = 0x01#8
  dout16   : r.dout16.length = 0 ∨ r.dout16.length = 64
  onError  : r.status ≠ .ok → r.data = 0x0000#16 ∧ r.count = 0 ∧ r.dout = [] ∧ r.dout16 = []

/-- The invariant of the block: IDCHK is 1 whenever LSTATE is UNINIT (R25, D29); READY with IDCHK = 1 means that the
header passed the check (R33); RSP is well formed; a fault and a refusal never stand together (R13); the program
index is within the host's list (R28). -/
structure State.inv (s : State) : Prop where
  idchkDefault : s.lstate = .uninit → s.idchk = true
  identity     : s.lstate = .ready → s.idchk = true → s.identityPasses
  response     : s.rsp.wf
  oneStop      : s.fault = .none ∨ s.refused = none
  index        : s.pc ≤ s.program.length

/-- What REG holds after the transactions of a log, from the value r (R44): the value last written. -/
def replay (r : U16) : List BusEntry → U16
  | []          => r
  | .rd _ :: l  => replay r l
  | .wr v :: l  => replay v l

/-- Every read of the log returned the value last written before it, or r if none was (R44). -/
def coherent (r : U16) : List BusEntry → Prop
  | []          => True
  | .rd v :: l  => v = r ∧ coherent r l
  | .wr v :: l  => coherent v l

/-- Read-back (R44, R51), for the power-up value d_reg0 = r0: BUSLOG is coherent, and REG holds what BUSLOG left in
it unless a write faulted. -/
def State.readBack (r0 : U16) (s : State) : Prop :=
  coherent r0 s.busLog ∧ (s.fault = .none → s.reg = replay r0 s.busLog)

/-! ### Runs (R197) -/

/-- The run has ended well: every command of the list has completed with a response, FAULT = NONE and
REFUSED = false. -/
def State.endsWell (s : State) : Bool :=
  decide (s.pc = s.program.length ∧ s.fault = .none ∧ s.refused = none)

/-- What R197 observes of a run that ends well. -/
structure Observation where
  reg       : U16
  lstate    : LState
  idchk     : Bool
  responses : List Response
  busLog    : List BusEntry
  deriving DecidableEq, Repr

/-- The responses of the next n steps, in order: one for each command that completes. -/
def responses : Nat → State → List Response
  | 0,     _ => []
  | n + 1, s =>
    match step s with
    | .next s'   => if s'.pc = s.pc then [] else s'.rsp :: responses n s'
    | .fault _   => []
    | .refused _ => []

/-- The observation of R197 of a run of at most n steps from s; none if the run does not end well. -/
def observe (n : Nat) (s : State) : Option Observation :=
  match Sys2Proof.core.run n s with
  | .next t    => if t.endsWell then some ⟨t.reg, t.lstate, t.idchk, responses n s, t.busLog⟩ else none
  | .fault _   => none
  | .refused _ => none

end Sys2Proof.Machine
end

