-- ==== Sys2Proof/Certificates/Slice0/Obligations.lean ====
section
/-! DEFINITION. The statements for the provers. Each docstring names the rule it formalises. A command's result is
stated as the whole next state, so that it is the command's frame as well: every field not written out is unchanged. -/

open Sys2Proof Sys2Proof.Machine

/-! ### Power-up and the invariants -/

/-- R190 (the values of R32): the state at power-up, for every choice of the open parameters, the header and the draw
d_reg0; INIT is the only command it accepts. The last clause is the model's choice, not R190's: the reset state is such a
state, with the open parameters as constants (notes/assumptions/1.md), REG as a constant (2.md) and no command in the
host's list (4.md). -/
def Obligations.PowerUpAcceptsOnlyInit : Prop :=
  (∀ p idh d prog, State.powerUp p idh d prog =
      { reg := d, idh := idh, lstate := .uninit, idchk := true, fault := .none, refused := none,
        rsp := ⟨.ok, 0, 0, [], []⟩, busLog := [], pc := 0, params := p, program := prog }) ∧
  (∀ p idh d c prog i, decode c.cmd = .ok i → (∀ b, i ≠ .init b) →
      step (State.powerUp p idh d (c :: prog)) =
        .next { State.powerUp p idh d (c :: prog) with refused := some .wrongState }) ∧
  (∀ p idh d c prog b, decode c.cmd = .ok (.init b) → regOffsetLegal p.regOffset = true →
      ∃ t, step (State.powerUp p idh d (c :: prog)) = .next t ∧ t.refused = none) ∧
  (∃ p idh d, regOffsetLegal p.regOffset = true ∧ State.reset = State.powerUp p idh d [])

/-- The invariant `State.inv` holds at power-up, so at reset. -/
def Obligations.PowerUpMeetsTheInvariant : Prop :=
  State.reset.inv ∧ ∀ p idh d prog, (State.powerUp p idh d prog).inv

/-- R25, R33, R72, R28: `State.inv` is kept by every step, from every state that meets it. -/
def Obligations.EveryStepKeepsTheInvariant : Prop :=
  ∀ s t : State, s.inv → step s = .next t → t.inv

/-- Read-back (R44) holds at power-up for the draw d_reg0. -/
def Obligations.PowerUpMeetsReadBack : Prop :=
  ∀ p idh d prog, (State.powerUp p idh d prog).readBack d

/-- R44, R51: every MemRead returns the value of the most recent completed MemWrite, or d_reg0 before any; every step
keeps this. -/
def Obligations.EveryStepKeepsReadBack : Prop :=
  ∀ (r0 : U16) (s t : State), s.readBack r0 → step s = .next t → t.readBack r0

/-! ### Encoding -/

/-- R62, R63, R75: decoding the word of a well-formed command gives it back, with every operand. -/
def Obligations.DecodeInvertsEncode : Prop :=
  ∀ i : Instr, i.wf = true → decode (encode i) = .ok i

/-- R62, R63: a word that decodes is the word of the command it decodes to, which is well formed. -/
def Obligations.EncodeInvertsDecode : Prop :=
  ∀ (w : U32) (i : Instr), decode w = .ok i → i.wf = true ∧ encode i = w

/-- R63: exactly one row matches each word whose OP is 0x0 to 0xA and whose Z bits (R61) are zero; every other word
matches none. -/
def Obligations.ExactlyOneRowSelectsASpelledWord : Prop :=
  ∀ w : U32,
    ((∃ r ∈ opcodeTable, opField w = opField r.word ∧ w &&& r.format.zMask = 0#32) →
      ∃ r ∈ opcodeTable, r.selects w = true ∧ ∀ r' ∈ opcodeTable, r'.selects w = true → r' = r) ∧
    ((∀ r ∈ opcodeTable, opField w = opField r.word → w &&& r.format.zMask ≠ 0#32) →
      ∀ r ∈ opcodeTable, r.selects w = false)

/-- Words written out from R61 and R63, one for each family of the opcode table. -/
def Obligations.SampleWordsDecodeAsTheMapSays : Prop :=
  decode 0x00000000#32 = .ok .regRd ∧
  decode 0x1000FF00#32 = .ok (.regWr 0xFF00#16) ∧
  decode 0x4000007F#32 = .ok (.idDump 127) ∧
  decode 0x6000001F#32 = .ok (.chWr 15 true) ∧
  decode 0x7000FFFF#32 = .ok (.blkRd (-1)) ∧
  decode 0x90000001#32 = .ok (.init true) ∧
  decode 0xA0000000#32 = .ok .exit ∧
  decode 0xC0000001#32 = .error .opcode ∧
  decode 0x60000020#32 = .error .bits

/-! ### The step (R67) -/

/-- R67: with neither FAULT nor REFUSED set, the word at the program index is decoded and its command performed. -/
def Obligations.StepPerformsTheDecodedCommand : Prop :=
  ∀ (s : State) (c : Command) (i : Instr),
    s.running → s.fetch = some c → decode c.cmd = .ok i → step s = exec i s

/-- R64: a word with OP = 0xB to 0xF is refused; it changes no state except REFUSED. -/
def Obligations.ReservedOpcodesAreRefused : Prop :=
  ∀ (s : State) (c : Command), s.running → s.fetch = some c → 0xB#4 ≤ opField c.cmd →
    step s = .next { s with refused := some .reservedOpcode }

/-- R65: a word of a defined opcode with any Z bit set is refused; it changes no state except REFUSED. -/
def Obligations.ReservedBitsAreRefused : Prop :=
  ∀ (s : State) (c : Command) (r : Row), s.running → s.fetch = some c →
    r ∈ opcodeTable → opField c.cmd = opField r.word → c.cmd &&& r.format.zMask ≠ 0#32 →
    step s = .next { s with refused := some .reservedBits }

/-- R26, R27, R175, R176: a faulted or refused block has no step. -/
def Obligations.NoStepAfterAFaultOrARefusal : Prop :=
  (∀ s : State, s.fault = .busFault → step s = .fault .busFault) ∧
  (∀ (s : State) (r : RefuseReason), s.fault = .none → s.refused = some r →
    step s = .refused (.refusedEarlier r))

/-- R66: INIT needs LSTATE = UNINIT, every other command needs LSTATE = READY. -/
def Obligations.CommandsInTheWrongStateAreRefused : Prop :=
  (∀ (s : State) (b : Bool), s.lstate ≠ .uninit →
    exec (.init b) s = .next { s with refused := some .wrongState }) ∧
  (∀ (s : State) (i : Instr), (∀ b, i ≠ .init b) → s.lstate ≠ .ready →
    exec i s = .next { s with refused := some .wrongState })

/-- R46, R67: with P_REG_OFFSET odd or above 254, a command in the right state is refused. That it is refused whatever
its operands is the model's reading of R67 (notes/assumptions/8.md). -/
def Obligations.IllegalRegisterOffsetIsRefused : Prop :=
  ∀ (s : State) (i : Instr), s.lstate = needs i →
    (regOffsetByte s.params.regOffset % 2 = 1 ∨ 254 < regOffsetByte s.params.regOffset) →
    exec i s = .next { s with refused := some .badParameter }

/-- R13, R28, R29, R72, R175, R176: the four ways a command ends. It completes with OK and overwrites all of RSP, so that
the next state is the same whatever RSP held before; it completes with an error status, and RSP is that status with every
other field cleared; it faults with RSP and the program index as they were; or it is refused and nothing else changes. A
completing command advances the index. -/
def Obligations.EveryStepCompletesFaultsOrRefuses : Prop :=
  ∀ s t : State, step s = .next t →
    (t.fault = .none ∧ t.refused = none ∧ t.pc = s.pc + 1 ∧ t.rsp.status = .ok ∧
      ∀ r : Response, step { s with rsp := r } = .next t) ∨
    (s.fault = .none ∧ s.refused = none ∧
      ∃ e, e ≠ .ok ∧ t = { s with rsp := ⟨e, 0, 0, [], []⟩, pc := s.pc + 1 }) ∨
    (t.fault = .busFault ∧ t.refused = none ∧ t.pc = s.pc ∧ t.rsp = s.rsp) ∨
    (∃ r, t = { s with refused := some r })

/-- R198, R187: every list of commands runs to its end, or to a fault or a refusal, in as many steps as it has
commands left. -/
def Obligations.EveryRunEndsWithinItsCommands : Prop :=
  ∀ s : State, s.running → s.pc ≤ s.program.length →
    ∃ n ≤ s.program.length - s.pc, ∃ t : State, Sys2Proof.core.run n s = .next t ∧
      (t.endsWell = true ∨ t.fault = .busFault ∨ t.refused.isSome = true)

/-! ### Register access primitives -/

/-- R80: REG.RD. -/
def Obligations.RegRdAnswersTheRegister : Prop :=
  encode .regRd = 0x00000000#32 ∧
  ∀ s : State, s.accepts .regRd →
    (s.inputs.dBus 0 = true →
      exec .regRd s = .next { s with
        rsp := ⟨.ok, s.reg, 0, [], []⟩, busLog := s.busLog ++ [.rd s.reg], pc := s.pc + 1 }) ∧
    (s.inputs.dBus 0 = false → exec .regRd s = .next { s with fault := .busFault })

/-- R81: REG.WR. After a faulted write REG holds the free value of R47. -/
def Obligations.RegWrWritesTheRegister : Prop :=
  (∀ v : U16, encode (.regWr v) = 0x10000000#32 ||| v.setWidth 32) ∧
  ∀ (s : State) (v : U16), s.accepts (.regWr v) →
    (s.inputs.dBus 0 = true →
      exec (.regWr v) s = .next { s with
        reg := v, rsp := ⟨.ok, 0, 0, [], []⟩, busLog := s.busLog ++ [.wr v], pc := s.pc + 1 }) ∧
    (s.inputs.dBus 0 = false →
      exec (.regWr v) s = .next { s with reg := s.inputs.regAfterFault, fault := .busFault })

/-- R82: REG.SET. -/
def Obligations.RegSetSetsTheMask : Prop :=
  (∀ m : U16, encode (.regSet m) = 0x20000000#32 ||| m.setWidth 32) ∧
  ∀ (s : State) (m : U16), s.accepts (.regSet m) →
    (s.inputs.dBus 0 = true → s.inputs.dBus 1 = true →
      exec (.regSet m) s = .next { s with
        reg := s.reg ||| m, rsp := ⟨.ok, 0, 0, [], []⟩,
        busLog := s.busLog ++ [.rd s.reg, .wr (s.reg ||| m)], pc := s.pc + 1 }) ∧
    (s.inputs.dBus 0 = false → exec (.regSet m) s = .next { s with fault := .busFault }) ∧
    (s.inputs.dBus 0 = true → s.inputs.dBus 1 = false →
      exec (.regSet m) s = .next { s with
        reg := s.inputs.regAfterFault, busLog := s.busLog ++ [.rd s.reg], fault := .busFault })

/-- R83: REG.CLR. -/
def Obligations.RegClrClearsTheMask : Prop :=
  (∀ m : U16, encode (.regClr m) = 0x30000000#32 ||| m.setWidth 32) ∧
  ∀ (s : State) (m : U16), s.accepts (.regClr m) →
    (s.inputs.dBus 0 = true → s.inputs.dBus 1 = true →
      exec (.regClr m) s = .next { s with
        reg := s.reg &&& ~~~m, rsp := ⟨.ok, 0, 0, [], []⟩,
        busLog := s.busLog ++ [.rd s.reg, .wr (s.reg &&& ~~~m)], pc := s.pc + 1 }) ∧
    (s.inputs.dBus 0 = false → exec (.regClr m) s = .next { s with fault := .busFault }) ∧
    (s.inputs.dBus 0 = true → s.inputs.dBus 1 = false →
      exec (.regClr m) s = .next { s with
        reg := s.inputs.regAfterFault, busLog := s.busLog ++ [.rd s.reg], fault := .busFault })

/-- R84: the laws of the primitives, for two commands one after the other. -/
def Obligations.RegisterPrimitivesCompose : Prop :=
  ∀ (s : State) (m m' v : U16), s.operational →
    (s.issues 0 (.regSet m) → s.issues 1 (.regClr m) →
      ∃ u t, step s = .next u ∧ step u = .next t ∧ t.reg = s.reg &&& ~~~m) ∧
    (s.issues 0 (.regClr m) → s.issues 1 (.regSet m) →
      ∃ u t, step s = .next u ∧ step u = .next t ∧ t.reg = s.reg ||| m) ∧
    (s.issues 0 (.regSet m) → s.issues 1 (.regSet m') →
      ∃ u t, step s = .next u ∧ step u = .next t ∧ t.reg = s.reg ||| m ||| m') ∧
    (s.issues 0 (.regSet m') → s.issues 1 (.regSet m) →
      ∃ u t, step s = .next u ∧ step u = .next t ∧ t.reg = s.reg ||| m ||| m') ∧
    (s.issues 0 (.regWr v) → s.issues 1 .regRd →
      ∃ u t, step s = .next u ∧ step u = .next t ∧ t.rsp = ⟨.ok, v, 0, [], []⟩)

/-! ### Identity -/

/-- R104: ID.DUMP. -/
def Obligations.IdDumpAnswersTheWholeHeader : Prop :=
  (∀ len : Nat, len < 65536 → encode (.idDump len) = 0x40000000#32 ||| BitVec.ofNat 32 len) ∧
  ∀ (s : State) (len : Nat), s.accepts (.idDump len) →
    (len < 128 →
      exec (.idDump len) s = .next { s with rsp := ⟨.bufferTooSmall, 0, 0, [], []⟩, pc := s.pc + 1 }) ∧
    (128 ≤ len → (∀ k < 64, s.inputs.dBus k = true) →
      exec (.idDump len) s = .next { s with rsp := ⟨.ok, 0, 0, [], s.idh.toList⟩, pc := s.pc + 1 }) ∧
    (128 ≤ len → (∃ k < 64, s.inputs.dBus k = false) →
      exec (.idDump len) s = .next { s with fault := .busFault })

/-- R100, R101: what INIT with the check enabled answers when the identity check fails, and a bus fault on either read
of the header. Both wrong gives BadMagic. -/
def Obligations.InitReportsAFailedIdentityCheck : Prop :=
  ∀ s : State, s.accepts (.init false) → s.inputs.alloc = true →
    (s.inputs.dBus 0 = true → s.inputs.dBus 1 = true → s.idh[0] ≠ s.params.magic →
      exec (.init false) s = .next { s with rsp := ⟨.badMagic, 0, 0, [], []⟩, pc := s.pc + 1 }) ∧
    (s.inputs.dBus 0 = true → s.inputs.dBus 1 = true → s.idh[0] = s.params.magic →
      s.idh[1] ≠ s.params.modelCodes.codeA → s.idh[1] ≠ s.params.modelCodes.codeB →
      s.idh[1] ≠ s.params.modelCodes.codeC →
      exec (.init false) s = .next { s with rsp := ⟨.unknownModel, 0, 0, [], []⟩, pc := s.pc + 1 }) ∧
    (s.inputs.dBus 0 = false ∨ s.inputs.dBus 1 = false →
      exec (.init false) s = .next { s with fault := .busFault })

/-- R102: no command but INIT with the check enabled completes with BadMagic or UnknownModel. -/
def Obligations.OnlyInitReportsIdentityErrors : Prop :=
  ∀ (i : Instr) (s t : State), exec i s = .next t → t.pc = s.pc + 1 →
    t.rsp.status = .badMagic ∨ t.rsp.status = .unknownModel → i = .init false

/-- R23, R105, R7: no step changes the header or the open parameters, nor the host's list; BUSLOG only grows (R30), by at
most the two transactions that R74 lists for a command. That the open parameters and the host's list are parts of the
state that no step changes is the model's form of R7 and R28 (notes/assumptions/1.md, 4.md). -/
def Obligations.StepKeepsHeaderParametersAndLog : Prop :=
  ∀ s t : State, step s = .next t →
    t.idh = s.idh ∧ t.params = s.params ∧ t.program = s.program ∧
    ∃ added : List BusEntry, added.length ≤ 2 ∧ t.busLog = s.busLog ++ added

/-- R23: header words 2 to 63 reach no command but ID.DUMP. -/
def Obligations.OnlyIdDumpSeesTheOtherHeaderWords : Prop :=
  ∀ (i : Instr) (s t : State) (idh' : Vector U16 64), (∀ len, i ≠ .idDump len) →
    idh'[0] = s.idh[0] → idh'[1] = s.idh[1] → exec i s = .next t →
    exec i { s with idh := idh' } = .next { t with idh := idh' }

/-! ### Channel codec -/

/-- R120: CH.RD. -/
def Obligations.ChRdAnswersTheChannel : Prop :=
  (∀ ch : Fin 16, encode (.chRd ch) = 0x50000000#32 ||| BitVec.ofNat 32 ch.val) ∧
  ∀ (s : State) (ch : Fin 16), s.accepts (.chRd ch) →
    (s.inputs.dBus 0 = true →
      exec (.chRd ch) s = .next { s with
        rsp := ⟨.ok, if s.reg.getLsbD ch.val then 1 else 0, 0, [], []⟩,
        busLog := s.busLog ++ [.rd s.reg], pc := s.pc + 1 }) ∧
    (s.inputs.dBus 0 = false → exec (.chRd ch) s = .next { s with fault := .busFault })

/-- R121: CH.WR, with the new word described bit by bit. -/
def Obligations.ChWrWritesOneChannel : Prop :=
  (∀ (ch : Fin 16) (value : Bool), encode (.chWr ch value) =
    0x60000000#32 ||| ((if value then 1#32 else 0#32) <<< 4) ||| BitVec.ofNat 32 ch.val) ∧
  ∀ (s : State) (ch : Fin 16) (value : Bool), s.accepts (.chWr ch value) →
    (s.inputs.dBus 0 = true → s.inputs.dBus 1 = true →
      ∃ v : U16, (∀ j < 16, v.getLsbD j = if j = ch.val then value else s.reg.getLsbD j) ∧
        exec (.chWr ch value) s = .next { s with
          reg := v, rsp := ⟨.ok, 0, 0, [], []⟩,
          busLog := s.busLog ++ [.rd s.reg, .wr v], pc := s.pc + 1 }) ∧
    (s.inputs.dBus 0 = false → exec (.chWr ch value) s = .next { s with fault := .busFault }) ∧
    (s.inputs.dBus 0 = true → s.inputs.dBus 1 = false →
      exec (.chWr ch value) s = .next { s with
        reg := s.inputs.regAfterFault, busLog := s.busLog ++ [.rd s.reg], fault := .busFault })

/-- R122: bit isolation: a channel write followed by a read of any channel. -/
def Obligations.ChannelWritesAreIsolated : Prop :=
  ∀ (s : State) (c c' : Fin 16) (v : Bool), s.operational →
    s.issues 0 (.chWr c v) → s.issues 1 (.chRd c') →
    ∃ u t, step s = .next u ∧ step u = .next t ∧
      t.rsp = ⟨.ok, if (if c' = c then v else s.reg.getLsbD c'.val) then 1 else 0, 0, [], []⟩

/-- R123: BLK.RD, for the sizes 0 to 16 and for the others. -/
def Obligations.BlkRdUnpacksTheRegister : Prop :=
  (∀ size : Int, encode (.blkRd size) = 0x70000000#32 ||| (BitVec.ofInt 16 size).setWidth 32) ∧
  (∀ (s : State) (size : Int), size < 0 ∨ 16 < size → s.accepts (.blkRd size) →
    exec (.blkRd size) s = .next { s with rsp := ⟨.invalidSize, 0, 0, [], []⟩, pc := s.pc + 1 }) ∧
  ∀ (s : State) (n : Nat), n ≤ 16 → s.accepts (.blkRd n) →
    (s.inputs.dBus 0 = true →
      ∃ out : List U8, out.length = n ∧
        (∀ j < n, out[j]? = some (if s.reg.getLsbD j then 0x01#8 else 0x00#8)) ∧
        exec (.blkRd n) s = .next { s with
          rsp := ⟨.ok, 0, n, out, []⟩, busLog := s.busLog ++ [.rd s.reg], pc := s.pc + 1 }) ∧
    (s.inputs.dBus 0 = false → exec (.blkRd n) s = .next { s with fault := .busFault })

/-- R124: InvalidSize comes before any MemRead, so it is the answer whatever the bus draws are, and a size in 0..16 is
never answered with it. -/
def Obligations.InvalidSizeIsForOutOfRangeSizes : Prop :=
  ∀ (s : State) (size : Int) (i : Instr), i = .blkRd size ∨ i = .blkWr size → s.accepts i →
    ∃ t, exec i s = .next t ∧
      (size < 0 ∨ 16 < size → t = { s with rsp := ⟨.invalidSize, 0, 0, [], []⟩, pc := s.pc + 1 }) ∧
      (0 ≤ size → size ≤ 16 → t.pc = s.pc + 1 → t.rsp.status = .ok)

/-- R126, R125: BLK.WR, for the sizes 0 to 16, with the new word described bit by bit, and for the others. -/
def Obligations.BlkWrPacksTheLowChannels : Prop :=
  (∀ size : Int, encode (.blkWr size) = 0x80000000#32 ||| (BitVec.ofInt 16 size).setWidth 32) ∧
  (∀ (s : State) (size : Int), size < 0 ∨ 16 < size → s.accepts (.blkWr size) →
    exec (.blkWr size) s = .next { s with rsp := ⟨.invalidSize, 0, 0, [], []⟩, pc := s.pc + 1 }) ∧
  ∀ (s : State) (n : Nat), n ≤ 16 → s.accepts (.blkWr n) →
    (s.inputs.dBus 0 = true → s.inputs.dBus 1 = true →
      ∃ v : U16,
        (∀ j : Fin 16, v.getLsbD j.val =
          if j.val < n then decide (s.inputs.din[j] ≠ 0x00#8) else s.reg.getLsbD j.val) ∧
        exec (.blkWr n) s = .next { s with
          reg := v, rsp := ⟨.ok, 0, n, [], []⟩,
          busLog := s.busLog ++ [.rd s.reg, .wr v], pc := s.pc + 1 }) ∧
    (s.inputs.dBus 0 = false → exec (.blkWr n) s = .next { s with fault := .busFault }) ∧
    (s.inputs.dBus 0 = true → s.inputs.dBus 1 = false →
      exec (.blkWr n) s = .next { s with
        reg := s.inputs.regAfterFault, busLog := s.busLog ++ [.rd s.reg], fault := .busFault })

/-- R127: BLK.WR n followed by BLK.RD n. -/
def Obligations.BlockWriteThenReadRoundTrips : Prop :=
  ∀ (s : State) (n : Nat), n ≤ 16 → s.operational →
    s.issues 0 (.blkWr n) → s.issues 1 (.blkRd n) →
    ∃ u t, step s = .next u ∧ step u = .next t ∧
      t.rsp.status = .ok ∧ t.rsp.count = n ∧ t.rsp.dout.length = n ∧
      (∀ j : Fin 16, j.val < n →
        t.rsp.dout[j.val]? = some (if s.inputs.din[j] ≠ 0x00#8 then 0x01#8 else 0x00#8)) ∧
      ((∀ j : Fin 16, j.val < n → s.inputs.din[j] = 0x00#8 ∨ s.inputs.din[j] = 0x01#8) →
        t.rsp.dout = s.inputs.din.toList.take n) ∧
      (∀ j, n ≤ j → u.reg.getLsbD j = s.reg.getLsbD j ∧ t.reg.getLsbD j = s.reg.getLsbD j)

/-- R71: the bytes DIN[size..15] of BLK.WR are ignored, and no other command reads DIN. -/
def Obligations.UnusedDinBytesAreIgnored : Prop :=
  ∀ (i : Instr) (s t : State) (program' : List Command),
    { s with program := program' }.inputs = { s.inputs with din := { s with program := program' }.inputs.din } →
    (∀ n : Nat, i = .blkWr n →
      ∀ j : Fin 16, j.val < n → { s with program := program' }.inputs.din[j] = s.inputs.din[j]) →
    exec i s = .next t →
    exec i { s with program := program' } = .next { t with program := program' }

/-! ### Lifecycle -/

/-- R150: INIT with the check disabled. -/
def Obligations.InitWithoutTheCheckResetsTheRegister : Prop :=
  encode (.init true) = 0x90000001#32 ∧
  ∀ s : State, s.accepts (.init true) → s.inputs.alloc = true →
    (s.inputs.dBus 0 = true →
      exec (.init true) s = .next { s with
        reg := 0, lstate := .ready, idchk := false, rsp := ⟨.ok, 0, 0, [], []⟩,
        busLog := s.busLog ++ [.wr 0], pc := s.pc + 1 }) ∧
    (s.inputs.dBus 0 = false →
      exec (.init true) s = .next { s with reg := s.inputs.regAfterFault, fault := .busFault })

/-- R150, R103: INIT with the check enabled on a header that passes; the register write is its third access. -/
def Obligations.InitWithTheCheckResetsTheRegister : Prop :=
  encode (.init false) = 0x90000000#32 ∧
  ∀ s : State, s.accepts (.init false) → s.inputs.alloc = true →
    s.inputs.dBus 0 = true → s.inputs.dBus 1 = true → s.idh[0] = s.params.magic →
    (s.idh[1] = s.params.modelCodes.codeA ∨ s.idh[1] = s.params.modelCodes.codeB ∨
      s.idh[1] = s.params.modelCodes.codeC) →
    (s.inputs.dBus 2 = true →
      exec (.init false) s = .next { s with
        reg := 0, lstate := .ready, idchk := true, rsp := ⟨.ok, 0, 0, [], []⟩,
        busLog := s.busLog ++ [.wr 0], pc := s.pc + 1 }) ∧
    (s.inputs.dBus 2 = false →
      exec (.init false) s = .next { s with reg := s.inputs.regAfterFault, fault := .busFault })

/-- R152: with the draw d_alloc false, INIT responds AllocFail before any device access. -/
def Obligations.InitWithoutStorageFails : Prop :=
  ∀ (s : State) (nochk : Bool), s.accepts (.init nochk) → s.inputs.alloc = false →
    exec (.init nochk) s = .next { s with rsp := ⟨.allocFail, 0, 0, [], []⟩, pc := s.pc + 1 }

/-- R153: after a successful INIT the register reads back 0 and every channel reports false. -/
def Obligations.ReadsAfterInitAreZero : Prop :=
  ∀ (s : State) (nochk : Bool), s.running → s.accepts (.init nochk) → s.inputs.alloc = true →
    (nochk = false → s.identityPasses) → s.issues 0 (.init nochk) →
    (s.issues 1 .regRd →
      ∃ u t, step s = .next u ∧ step u = .next t ∧ t.rsp = ⟨.ok, 0, 0, [], []⟩) ∧
    (∀ c : Fin 16, s.issues 1 (.chRd c) →
      ∃ u t, step s = .next u ∧ step u = .next t ∧ t.rsp = ⟨.ok, 0, 0, [], []⟩)

/-- R154: EXIT. After it every command but INIT is refused, and an INIT is accepted. -/
def Obligations.ExitResetsAndReleases : Prop :=
  encode .exit = 0xA0000000#32 ∧
  (∀ (s t : State) (i : Instr), s.accepts .exit → s.inputs.dBus 0 = true → exec .exit s = .next t →
    ((∀ b, i ≠ .init b) → exec i t = .next { t with refused := some .wrongState }) ∧
    ∀ b, t.accepts (.init b)) ∧
  (∀ s : State, s.lstate ≠ .ready → exec .exit s = .next { s with refused := some .wrongState }) ∧
  ∀ s : State, s.accepts .exit →
    (s.inputs.dBus 0 = true →
      exec .exit s = .next { s with
        reg := 0, lstate := .uninit, idchk := true, rsp := ⟨.ok, 0, 0, [], []⟩,
        busLog := s.busLog ++ [.wr 0], pc := s.pc + 1 }) ∧
    (s.inputs.dBus 0 = false →
      exec .exit s = .next { s with reg := s.inputs.regAfterFault, fault := .busFault })

/-- R24, R25: only INIT enters READY, only EXIT enters UNINIT, and no other command changes IDCHK. -/
def Obligations.OnlyInitAndExitChangeTheLifecycle : Prop :=
  ∀ (i : Instr) (s t : State), exec i s = .next t →
    (t.lstate = .ready → s.lstate = .ready ∨ ∃ b, i = .init b) ∧
    (t.lstate = .uninit → s.lstate = .uninit ∨ i = .exit) ∧
    ((∀ b, i ≠ .init b) → i ≠ .exit → t.idchk = s.idchk)

/-! ### Whole-machine rules -/

/-- R74, R173: a command that is accepted faults exactly when one of the accesses the table lists for it does not
complete, and otherwise adds to BUSLOG exactly the register transactions listed, in order. -/
def Obligations.AccessesAreTheListedOnes : Prop :=
  ∀ (i : Instr) (s : State), s.accepts i → s.fault = .none →
    ∃ t, exec i s = .next t ∧
      (t.fault = .busFault ↔ ∃ k < (footprint s i).length, s.inputs.dBus k = false) ∧
      (t.fault = .none → ∃ added : List BusEntry, t.busLog = s.busLog ++ added ∧
        added.map BusEntry.access = (footprint s i).filter Access.isTransaction)

/-- R178, R172: an error status leaves every piece of state as it was, except RSP, and the program index, which a
completed command advances. -/
def Obligations.ErrorsChangeOnlyTheResponse : Prop :=
  ∀ (i : Instr) (s t : State), exec i s = .next t → t.pc = s.pc + 1 → t.rsp.status ≠ .ok →
    t = { s with rsp := ⟨t.rsp.status, 0, 0, [], []⟩, pc := s.pc + 1 }

/-- R21: REG is written only by MemWrite: when a command that does not fault changes REG, its last transaction is the
write of the new value. -/
def Obligations.RegChangesOnlyByALoggedWrite : Prop :=
  ∀ (i : Instr) (s t : State), exec i s = .next t → t.fault = .none → t.reg ≠ s.reg →
    t.busLog.getLast? = some (.wr t.reg)

/-- D9, R7: commands do not depend on which legal offset P_REG_OFFSET is. -/
def Obligations.LegalRegisterOffsetsAreAlike : Prop :=
  ∀ (i : Instr) (s t : State) (offset : Config.RegOffset),
    regOffsetLegal s.params.regOffset = true →
    regOffsetByte offset % 2 = 0 → regOffsetByte offset ≤ 254 → exec i s = .next t →
    exec i { s with params := { s.params with regOffset := offset } } =
      .next { t with params := { s.params with regOffset := offset } }

/-- R103: the accepted set has exactly three distinct codes, and header word 1 is what is compared with them: on a header
with the right magic word, INIT with the check enabled enters READY when word 1 is one of the three, and otherwise
answers UnknownModel. -/
def Obligations.ExactlyThreeModelCodesAreAccepted : Prop :=
  ∀ p : Config.Params, ∃ codes : List U16, codes.length = 3 ∧ codes.Nodup ∧
    ∀ s : State, s.params = p → s.accepts (.init false) → s.inputs.alloc = true →
      s.inputs.busFaultAt = none → s.idh[0] = p.magic →
      ∃ t, exec (.init false) s = .next t ∧
        (s.idh[1] ∈ codes → t.rsp.status = .ok ∧ t.lstate = .ready) ∧
        (s.idh[1] ∉ codes → t.rsp.status = .unknownModel ∧ t.lstate = .uninit)
end

