-- ==== Sys2Proof/Laws/Config.lean ====
section
/-! SUPPORT. Every instance of P_MODEL_CODES is one that `modelCodesOf` chooses, so the constants of Config.lean shut no
instance out. -/

namespace Sys2Proof.Config

/-- What the proof field of `ModelCodes` says. -/
theorem ModelCodes.pairwise_ne (c : ModelCodes) : c.codeA ≠ c.codeB ∧ c.codeA ≠ c.codeC ∧ c.codeB ≠ c.codeC :=
  of_decide_eq_true c.distinct

/-- Every three distinct codes are chosen by some first word and steps. -/
theorem modelCodesOf_surjective (m : ModelCodes) : ∃ a b c, modelCodesOf a b c = m := by
  obtain ⟨hab, hac, hbc⟩ := m.pairwise_ne
  obtain ⟨a, b, c, _⟩ := m
  simp only at hab hac hbc
  have hb : 0 < (b - a).toNat := by bv_omega
  have hc : 0 < (c - a).toNat := by bv_omega
  have hd : (b - a).toNat ≠ (c - a).toNat := by bv_omega
  have lb := (b - a).isLt
  have lc := (c - a).isLt
  refine ⟨a, ⟨(b - a).toNat - 1, by omega⟩,
    ⟨if (c - a).toNat < (b - a).toNat then (c - a).toNat - 1 else (c - a).toNat - 2, by split <;> omega⟩, ?_⟩
  have eb : a + BitVec.ofNat 16 ((b - a).toNat - 1 + 1) = b := by bv_omega
  simp only [modelCodesOf, ModelCodes.mk.injEq, eb, true_and]
  split <;> split <;> bv_omega

end Sys2Proof.Config
end

