-- ==== Sys2Proof/Laws/State.lean ====
section
/-! SUPPORT. One lemma per field per named update of the state, so that no later proof unfolds a record update; and that
the updates made while a command is performed leave its inputs alone. -/

namespace Sys2Proof.Machine.State

@[simp] theorem logged_reg (s : State) (e : BusEntry) : (s.logged e).reg = s.reg := rfl
@[simp] theorem logged_idh (s : State) (e : BusEntry) : (s.logged e).idh = s.idh := rfl
@[simp] theorem logged_lstate (s : State) (e : BusEntry) : (s.logged e).lstate = s.lstate := rfl
@[simp] theorem logged_idchk (s : State) (e : BusEntry) : (s.logged e).idchk = s.idchk := rfl
@[simp] theorem logged_fault (s : State) (e : BusEntry) : (s.logged e).fault = s.fault := rfl
@[simp] theorem logged_refused (s : State) (e : BusEntry) : (s.logged e).refused = s.refused := rfl
@[simp] theorem logged_rsp (s : State) (e : BusEntry) : (s.logged e).rsp = s.rsp := rfl
@[simp] theorem logged_busLog (s : State) (e : BusEntry) : (s.logged e).busLog = s.busLog ++ [e] := rfl
@[simp] theorem logged_pc (s : State) (e : BusEntry) : (s.logged e).pc = s.pc := rfl
@[simp] theorem logged_params (s : State) (e : BusEntry) : (s.logged e).params = s.params := rfl
@[simp] theorem logged_program (s : State) (e : BusEntry) : (s.logged e).program = s.program := rfl
@[simp] theorem logged_inputs (s : State) (e : BusEntry) : (s.logged e).inputs = s.inputs := rfl
@[simp] theorem logged_fetch (s : State) (e : BusEntry) : (s.logged e).fetch = s.fetch := rfl
@[simp] theorem logged_idhWord (s : State) (e : BusEntry) (j : Nat) : (s.logged e).idhWord j = s.idhWord j := rfl

@[simp] theorem regWritten_reg (s : State) (v : U16) : (s.regWritten v).reg = v := rfl
@[simp] theorem regWritten_idh (s : State) (v : U16) : (s.regWritten v).idh = s.idh := rfl
@[simp] theorem regWritten_lstate (s : State) (v : U16) : (s.regWritten v).lstate = s.lstate := rfl
@[simp] theorem regWritten_idchk (s : State) (v : U16) : (s.regWritten v).idchk = s.idchk := rfl
@[simp] theorem regWritten_fault (s : State) (v : U16) : (s.regWritten v).fault = s.fault := rfl
@[simp] theorem regWritten_refused (s : State) (v : U16) : (s.regWritten v).refused = s.refused := rfl
@[simp] theorem regWritten_rsp (s : State) (v : U16) : (s.regWritten v).rsp = s.rsp := rfl
@[simp] theorem regWritten_busLog (s : State) (v : U16) : (s.regWritten v).busLog = s.busLog := rfl
@[simp] theorem regWritten_pc (s : State) (v : U16) : (s.regWritten v).pc = s.pc := rfl
@[simp] theorem regWritten_params (s : State) (v : U16) : (s.regWritten v).params = s.params := rfl
@[simp] theorem regWritten_program (s : State) (v : U16) : (s.regWritten v).program = s.program := rfl
@[simp] theorem regWritten_inputs (s : State) (v : U16) : (s.regWritten v).inputs = s.inputs := rfl
@[simp] theorem regWritten_fetch (s : State) (v : U16) : (s.regWritten v).fetch = s.fetch := rfl
@[simp] theorem regWritten_idhWord (s : State) (v : U16) (j : Nat) : (s.regWritten v).idhWord j = s.idhWord j := rfl

@[simp] theorem busFault_reg (s : State) : (s.busFault).reg = s.reg := rfl
@[simp] theorem busFault_idh (s : State) : (s.busFault).idh = s.idh := rfl
@[simp] theorem busFault_lstate (s : State) : (s.busFault).lstate = s.lstate := rfl
@[simp] theorem busFault_idchk (s : State) : (s.busFault).idchk = s.idchk := rfl
@[simp] theorem busFault_fault (s : State) : (s.busFault).fault = .busFault := rfl
@[simp] theorem busFault_refused (s : State) : (s.busFault).refused = s.refused := rfl
@[simp] theorem busFault_rsp (s : State) : (s.busFault).rsp = s.rsp := rfl
@[simp] theorem busFault_busLog (s : State) : (s.busFault).busLog = s.busLog := rfl
@[simp] theorem busFault_pc (s : State) : (s.busFault).pc = s.pc := rfl
@[simp] theorem busFault_params (s : State) : (s.busFault).params = s.params := rfl
@[simp] theorem busFault_program (s : State) : (s.busFault).program = s.program := rfl
@[simp] theorem busFault_inputs (s : State) : (s.busFault).inputs = s.inputs := rfl
@[simp] theorem busFault_fetch (s : State) : (s.busFault).fetch = s.fetch := rfl
@[simp] theorem busFault_idhWord (s : State) (j : Nat) : (s.busFault).idhWord j = s.idhWord j := rfl

@[simp] theorem busFaultOnWrite_reg (s : State) : (s.busFaultOnWrite).reg = s.inputs.regAfterFault := rfl
@[simp] theorem busFaultOnWrite_idh (s : State) : (s.busFaultOnWrite).idh = s.idh := rfl
@[simp] theorem busFaultOnWrite_lstate (s : State) : (s.busFaultOnWrite).lstate = s.lstate := rfl
@[simp] theorem busFaultOnWrite_idchk (s : State) : (s.busFaultOnWrite).idchk = s.idchk := rfl
@[simp] theorem busFaultOnWrite_fault (s : State) : (s.busFaultOnWrite).fault = .busFault := rfl
@[simp] theorem busFaultOnWrite_refused (s : State) : (s.busFaultOnWrite).refused = s.refused := rfl
@[simp] theorem busFaultOnWrite_rsp (s : State) : (s.busFaultOnWrite).rsp = s.rsp := rfl
@[simp] theorem busFaultOnWrite_busLog (s : State) : (s.busFaultOnWrite).busLog = s.busLog := rfl
@[simp] theorem busFaultOnWrite_pc (s : State) : (s.busFaultOnWrite).pc = s.pc := rfl
@[simp] theorem busFaultOnWrite_params (s : State) : (s.busFaultOnWrite).params = s.params := rfl
@[simp] theorem busFaultOnWrite_program (s : State) : (s.busFaultOnWrite).program = s.program := rfl
@[simp] theorem busFaultOnWrite_inputs (s : State) : (s.busFaultOnWrite).inputs = s.inputs := rfl
@[simp] theorem busFaultOnWrite_fetch (s : State) : (s.busFaultOnWrite).fetch = s.fetch := rfl
@[simp] theorem busFaultOnWrite_idhWord (s : State) (j : Nat) : (s.busFaultOnWrite).idhWord j = s.idhWord j := rfl

@[simp] theorem refuse_reg (s : State) (r : RefuseReason) : (s.refuse r).reg = s.reg := rfl
@[simp] theorem refuse_idh (s : State) (r : RefuseReason) : (s.refuse r).idh = s.idh := rfl
@[simp] theorem refuse_lstate (s : State) (r : RefuseReason) : (s.refuse r).lstate = s.lstate := rfl
@[simp] theorem refuse_idchk (s : State) (r : RefuseReason) : (s.refuse r).idchk = s.idchk := rfl
@[simp] theorem refuse_fault (s : State) (r : RefuseReason) : (s.refuse r).fault = s.fault := rfl
@[simp] theorem refuse_refused (s : State) (r : RefuseReason) : (s.refuse r).refused = some r := rfl
@[simp] theorem refuse_rsp (s : State) (r : RefuseReason) : (s.refuse r).rsp = s.rsp := rfl
@[simp] theorem refuse_busLog (s : State) (r : RefuseReason) : (s.refuse r).busLog = s.busLog := rfl
@[simp] theorem refuse_pc (s : State) (r : RefuseReason) : (s.refuse r).pc = s.pc := rfl
@[simp] theorem refuse_params (s : State) (r : RefuseReason) : (s.refuse r).params = s.params := rfl
@[simp] theorem refuse_program (s : State) (r : RefuseReason) : (s.refuse r).program = s.program := rfl
@[simp] theorem refuse_inputs (s : State) (r : RefuseReason) : (s.refuse r).inputs = s.inputs := rfl
@[simp] theorem refuse_fetch (s : State) (r : RefuseReason) : (s.refuse r).fetch = s.fetch := rfl
@[simp] theorem refuse_idhWord (s : State) (r : RefuseReason) (j : Nat) : (s.refuse r).idhWord j = s.idhWord j := rfl

@[simp] theorem bound_reg (s : State) (chk : Bool) : (s.bound chk).reg = s.reg := rfl
@[simp] theorem bound_idh (s : State) (chk : Bool) : (s.bound chk).idh = s.idh := rfl
@[simp] theorem bound_lstate (s : State) (chk : Bool) : (s.bound chk).lstate = .ready := rfl
@[simp] theorem bound_idchk (s : State) (chk : Bool) : (s.bound chk).idchk = chk := rfl
@[simp] theorem bound_fault (s : State) (chk : Bool) : (s.bound chk).fault = s.fault := rfl
@[simp] theorem bound_refused (s : State) (chk : Bool) : (s.bound chk).refused = s.refused := rfl
@[simp] theorem bound_rsp (s : State) (chk : Bool) : (s.bound chk).rsp = s.rsp := rfl
@[simp] theorem bound_busLog (s : State) (chk : Bool) : (s.bound chk).busLog = s.busLog := rfl
@[simp] theorem bound_pc (s : State) (chk : Bool) : (s.bound chk).pc = s.pc := rfl
@[simp] theorem bound_params (s : State) (chk : Bool) : (s.bound chk).params = s.params := rfl
@[simp] theorem bound_program (s : State) (chk : Bool) : (s.bound chk).program = s.program := rfl
@[simp] theorem bound_inputs (s : State) (chk : Bool) : (s.bound chk).inputs = s.inputs := rfl
@[simp] theorem bound_fetch (s : State) (chk : Bool) : (s.bound chk).fetch = s.fetch := rfl
@[simp] theorem bound_idhWord (s : State) (chk : Bool) (j : Nat) : (s.bound chk).idhWord j = s.idhWord j := rfl

@[simp] theorem released_reg (s : State) : (s.released).reg = s.reg := rfl
@[simp] theorem released_idh (s : State) : (s.released).idh = s.idh := rfl
@[simp] theorem released_lstate (s : State) : (s.released).lstate = .uninit := rfl
@[simp] theorem released_idchk (s : State) : (s.released).idchk = true := rfl
@[simp] theorem released_fault (s : State) : (s.released).fault = s.fault := rfl
@[simp] theorem released_refused (s : State) : (s.released).refused = s.refused := rfl
@[simp] theorem released_rsp (s : State) : (s.released).rsp = s.rsp := rfl
@[simp] theorem released_busLog (s : State) : (s.released).busLog = s.busLog := rfl
@[simp] theorem released_pc (s : State) : (s.released).pc = s.pc := rfl
@[simp] theorem released_params (s : State) : (s.released).params = s.params := rfl
@[simp] theorem released_program (s : State) : (s.released).program = s.program := rfl
@[simp] theorem released_inputs (s : State) : (s.released).inputs = s.inputs := rfl
@[simp] theorem released_fetch (s : State) : (s.released).fetch = s.fetch := rfl
@[simp] theorem released_idhWord (s : State) (j : Nat) : (s.released).idhWord j = s.idhWord j := rfl

@[simp] theorem latched_reg (s : State) (r : Response) : (s.latched r).reg = s.reg := rfl
@[simp] theorem latched_idh (s : State) (r : Response) : (s.latched r).idh = s.idh := rfl
@[simp] theorem latched_lstate (s : State) (r : Response) : (s.latched r).lstate = s.lstate := rfl
@[simp] theorem latched_idchk (s : State) (r : Response) : (s.latched r).idchk = s.idchk := rfl
@[simp] theorem latched_fault (s : State) (r : Response) : (s.latched r).fault = s.fault := rfl
@[simp] theorem latched_refused (s : State) (r : Response) : (s.latched r).refused = s.refused := rfl
@[simp] theorem latched_rsp (s : State) (r : Response) : (s.latched r).rsp = r := rfl
@[simp] theorem latched_busLog (s : State) (r : Response) : (s.latched r).busLog = s.busLog := rfl
@[simp] theorem latched_pc (s : State) (r : Response) : (s.latched r).pc = s.pc + 1 := rfl
@[simp] theorem latched_params (s : State) (r : Response) : (s.latched r).params = s.params := rfl
@[simp] theorem latched_program (s : State) (r : Response) : (s.latched r).program = s.program := rfl
@[simp] theorem latched_idhWord (s : State) (r : Response) (j : Nat) : (s.latched r).idhWord j = s.idhWord j := rfl

end Sys2Proof.Machine.State
end

