-- ==== Sys2Proof/Laws/Ops.lean ====
section
/-! SUPPORT. What each shared operation can do, said once: the checks before a command, the device accesses, the loop of
ID.DUMP, and placing a command in the host's list. -/

namespace Sys2Proof.Machine

/-! ### Inputs -/

theorem inputs_of_fetch {s : State} {c : Command} (h : s.fetch = some c) : s.inputs = c.inputs := by
  simp [State.inputs, h]

/-- With no faulting access named, every access completes. -/
theorem dBus_of_none {x : Inputs} (h : x.busFaultAt = none) (k : Nat) : x.dBus k = true := by
  simp [Inputs.dBus, h]

/-- An access does not complete exactly when it is the one named. -/
theorem dBus_eq_false_iff (x : Inputs) (k : Nat) : x.dBus k = false ↔ x.busFaultAt = some k := by
  simp [Inputs.dBus]

/-- At most one access of a command does not complete (R175: nothing follows it). -/
theorem dBus_false_unique {x : Inputs} {j k : Nat} (hj : x.dBus j = false) (hk : x.dBus k = false) : j = k := by
  rw [dBus_eq_false_iff] at hj hk
  simpa using hj.symm.trans hk

/-- After `putAt c l n` the list has c at n. -/
theorem putAt_getElem? (c : Command) (l : List Command) (n : Nat) : (putAt c l n)[n]? = some c := by
  induction n generalizing l with
  | zero => cases l <;> rfl
  | succ n ih =>
    cases l with
    | nil => simpa [putAt] using ih []
    | cons x t => simpa [putAt] using ih t

/-! ### Checks -/

/-- Legality says what R7 says of the byte offset, however the offset is given. -/
theorem regOffsetLegal_iff (o : Config.RegOffset) :
    regOffsetLegal o = true ↔ regOffsetByte o % 2 = 0 ∧ regOffsetByte o ≤ 254 := by
  cases o with
  | word k => have := k.isLt; simp [regOffsetLegal, regOffsetByte]; omega
  | byte n => simp [regOffsetLegal, regOffsetByte]

theorem perform_wrongState {need : LState} {s : State} (h : s.lstate ≠ need) (rule : State → State) :
    perform need s rule = s.refuse .wrongState := by
  simp [perform, h]

theorem perform_badParameter {need : LState} {s : State} (h : s.lstate = need)
    (hp : regOffsetLegal s.params.regOffset = false) (rule : State → State) :
    perform need s rule = s.refuse .badParameter := by
  simp [perform, h, hp]

theorem perform_accepted {need : LState} {s : State} (h : s.lstate = need)
    (hp : regOffsetLegal s.params.regOffset = true) (rule : State → State) :
    perform need s rule = rule s := by
  simp [perform, h, hp]

/-- Everything `perform` can do. -/
theorem perform_cases (need : LState) (s : State) (rule : State → State) :
    (s.lstate ≠ need ∧ perform need s rule = s.refuse .wrongState) ∨
    (s.lstate = need ∧ regOffsetLegal s.params.regOffset = false ∧
      perform need s rule = s.refuse .badParameter) ∨
    (s.lstate = need ∧ regOffsetLegal s.params.regOffset = true ∧ perform need s rule = rule s) := by
  by_cases h : s.lstate = need
  · cases hp : regOffsetLegal s.params.regOffset
    · exact .inr (.inl ⟨h, rfl, perform_badParameter h hp rule⟩)
    · exact .inr (.inr ⟨h, rfl, perform_accepted h hp rule⟩)
  · exact .inl ⟨h, perform_wrongState h rule⟩

/-! ### Accesses -/

theorem memRead_completes {k : Nat} {s : State} (h : s.inputs.dBus k = true) (after : U16 → State → State) :
    memRead k s after = after s.reg (s.logged (.rd s.reg)) := by
  simp [memRead, h]

theorem memRead_faults {k : Nat} {s : State} (h : s.inputs.dBus k = false) (after : U16 → State → State) :
    memRead k s after = s.busFault := by
  simp [memRead, h]

theorem memWrite_completes {k : Nat} {s : State} (h : s.inputs.dBus k = true) (v : U16)
    (after : State → State) : memWrite k v s after = after ((s.regWritten v).logged (.wr v)) := by
  simp [memWrite, h]

theorem memWrite_faults {k : Nat} {s : State} (h : s.inputs.dBus k = false) (v : U16)
    (after : State → State) : memWrite k v s after = s.busFaultOnWrite := by
  simp [memWrite, h]

/-- A read/modify/write when both accesses complete. -/
theorem readModifyWrite_completes {s : State} (h0 : s.inputs.dBus 0 = true) (h1 : s.inputs.dBus 1 = true)
    (f : U16 → U16) (after : State → State) :
    readModifyWrite f s after =
      after (((s.logged (.rd s.reg)).regWritten (f s.reg)).logged (.wr (f s.reg))) := by
  rw [readModifyWrite, memRead_completes h0, memWrite_completes (by simpa using h1)]

/-- A read/modify/write whose read faults makes no write. -/
theorem readModifyWrite_readFaults {s : State} (h0 : s.inputs.dBus 0 = false) (f : U16 → U16)
    (after : State → State) : readModifyWrite f s after = s.busFault := by
  rw [readModifyWrite, memRead_faults h0]

/-- A read/modify/write whose write faults. -/
theorem readModifyWrite_writeFaults {s : State} (h0 : s.inputs.dBus 0 = true) (h1 : s.inputs.dBus 1 = false)
    (f : U16 → U16) (after : State → State) :
    readModifyWrite f s after = (s.logged (.rd s.reg)).busFaultOnWrite := by
  rw [readModifyWrite, memRead_completes h0, memWrite_faults (by simpa using h1)]

theorem idRead_completes {k j : Nat} {s : State} (h : s.inputs.dBus k = true) (after : U16 → State → State) :
    idRead k j s after = after (s.idhWord j) s := by
  simp [idRead, h]

theorem idRead_faults {k j : Nat} {s : State} (h : s.inputs.dBus k = false) (after : U16 → State → State) :
    idRead k j s after = s.busFault := by
  simp [idRead, h]

/-- Everything a read of the register can do. -/
theorem memRead_cases (k : Nat) (s : State) (after : U16 → State → State) :
    (s.inputs.dBus k = true ∧ memRead k s after = after s.reg (s.logged (.rd s.reg))) ∨
    (s.inputs.dBus k = false ∧ memRead k s after = s.busFault) := by
  cases h : s.inputs.dBus k with
  | true => exact .inl ⟨rfl, memRead_completes h after⟩
  | false => exact .inr ⟨rfl, memRead_faults h after⟩

/-- Everything a write of the register can do. -/
theorem memWrite_cases (k : Nat) (v : U16) (s : State) (after : State → State) :
    (s.inputs.dBus k = true ∧ memWrite k v s after = after ((s.regWritten v).logged (.wr v))) ∨
    (s.inputs.dBus k = false ∧ memWrite k v s after = s.busFaultOnWrite) := by
  cases h : s.inputs.dBus k with
  | true => exact .inl ⟨rfl, memWrite_completes h v after⟩
  | false => exact .inr ⟨rfl, memWrite_faults h v after⟩

/-- Everything a read/modify/write can do. -/
theorem readModifyWrite_cases (f : U16 → U16) (s : State) (after : State → State) :
    (s.inputs.dBus 0 = true ∧ s.inputs.dBus 1 = true ∧ readModifyWrite f s after =
      after (((s.logged (.rd s.reg)).regWritten (f s.reg)).logged (.wr (f s.reg)))) ∨
    (s.inputs.dBus 0 = false ∧ readModifyWrite f s after = s.busFault) ∨
    (s.inputs.dBus 0 = true ∧ s.inputs.dBus 1 = false ∧
      readModifyWrite f s after = (s.logged (.rd s.reg)).busFaultOnWrite) := by
  cases h0 : s.inputs.dBus 0 with
  | false => exact .inr (.inl ⟨rfl, readModifyWrite_readFaults h0 f after⟩)
  | true =>
    cases h1 : s.inputs.dBus 1 with
    | true => exact .inl ⟨rfl, rfl, readModifyWrite_completes h0 h1 f after⟩
    | false => exact .inr (.inr ⟨rfl, rfl, readModifyWrite_writeFaults h0 h1 f after⟩)

/-- Everything an identity-header read can do. -/
theorem idRead_cases (k j : Nat) (s : State) (after : U16 → State → State) :
    (s.inputs.dBus k = true ∧ idRead k j s after = after (s.idhWord j) s) ∨
    (s.inputs.dBus k = false ∧ idRead k j s after = s.busFault) := by
  cases h : s.inputs.dBus k with
  | true => exact .inl ⟨rfl, idRead_completes h after⟩
  | false => exact .inr ⟨rfl, idRead_faults h after⟩

/-- A header word by its index. -/
theorem idhWord_eq (s : State) (j : Nat) (h : j < 64) : s.idhWord j = s.idh[j] := by
  simp [State.idhWord, List.getD, h]

/-- The loop of ID.DUMP when no read faults: the words from j on are appended to what was gathered. -/
theorem idReadLoop_completes (after : List U16 → State → State) (s : State) (n j : Nat) (out : List U16)
    (h : ∀ k, j ≤ k → k < j + n → s.inputs.dBus k = true) :
    idReadLoop after n j out s = after (out ++ (List.range n).map fun i => s.idhWord (j + i)) s := by
  induction n generalizing j out with
  | zero => simp [idReadLoop]
  | succ n ih =>
    rw [idReadLoop, idRead_completes (h j (Nat.le_refl j) (by omega)),
      ih (j + 1) _ fun k hk hk' => h k (by omega) (by omega), List.range_succ_eq_map]
    simp [Function.comp_def, Nat.add_assoc, Nat.add_comm 1]

/-- The loop of ID.DUMP when a read faults: what was gathered is dropped. -/
theorem idReadLoop_faults (after : List U16 → State → State) (s : State) (n j : Nat) (out : List U16)
    (h : ∃ k, j ≤ k ∧ k < j + n ∧ s.inputs.dBus k = false) :
    idReadLoop after n j out s = s.busFault := by
  induction n generalizing j out with
  | zero => obtain ⟨k, h1, h2, -⟩ := h; omega
  | succ n ih =>
    rw [idReadLoop]
    cases hj : s.inputs.dBus j with
    | false => exact idRead_faults hj _
    | true =>
      rw [idRead_completes hj]
      obtain ⟨k, h1, h2, h3⟩ := h
      refine ih (j + 1) _ ⟨k, ?_, by omega, h3⟩
      rcases Nat.eq_or_lt_of_le h1 with rfl | h1
      · simp [hj] at h3
      · omega

end Sys2Proof.Machine
end

