-- ==== Sys2Proof/Laws/Machine.lean ====
section
/-! SUPPORT. What `validate` and `step` can do, said once. -/

namespace Sys2Proof.Machine

/-- Validate when both reads complete. -/
theorem validate_completes {s : State} (h0 : s.inputs.dBus 0 = true) (h1 : s.inputs.dBus 1 = true)
    (after : Status → State → State) :
    validate s after = after (identityStatus s.params (s.idhWord 0) (s.idhWord 1)) s := by
  rw [validate, idRead_completes h0, idRead_completes h1]

/-- Validate when a read faults. -/
theorem validate_faults {s : State} (h : s.inputs.dBus 0 = false ∨ s.inputs.dBus 1 = false)
    (after : Status → State → State) : validate s after = s.busFault := by
  rw [validate]
  cases h0 : s.inputs.dBus 0 with
  | false => rw [idRead_faults h0]
  | true => rw [idRead_completes h0, idRead_faults (by simpa [h0] using h)]

/-- The three results of Validate (R100, R101). -/
theorem identityStatus_cases (p : Config.Params) (w0 w1 : U16) :
    (w0 ≠ p.magic ∧ identityStatus p w0 w1 = .badMagic) ∨
    (w0 = p.magic ∧ modelAccepted p.modelCodes w1 = false ∧ identityStatus p w0 w1 = .unknownModel) ∨
    (w0 = p.magic ∧ modelAccepted p.modelCodes w1 = true ∧ identityStatus p w0 w1 = .ok) := by
  by_cases h : w0 = p.magic
  · cases hm : modelAccepted p.modelCodes w1 <;> simp [identityStatus, h, hm]
  · simp [identityStatus, h]

/-- A step that answers a next state was made with neither FAULT nor REFUSED set, from a command of the host's list: a
refused word, or a performed command. -/
theorem step_cases {s t : State} (h : step s = .next t) :
    s.fault = .none ∧ s.refused = none ∧ ∃ c, s.fetch = some c ∧
      ((∃ e, decode c.cmd = .error e ∧ t = s.refuse (reservedReason e)) ∨
        (∃ i, decode c.cmd = .ok i ∧ exec i s = .next t)) := by
  unfold step at h
  cases hf : s.fault with
  | busFault => simp [hf] at h
  | none =>
    cases hr : s.refused with
    | some r => simp [hf, hr] at h
    | none =>
      cases hc : s.fetch with
      | none => simp [hf, hr, hc] at h
      | some c =>
        refine ⟨rfl, rfl, c, rfl, ?_⟩
        cases hd : decode c.cmd with
        | error e =>
          simp only [hf, hr, hc, performCommand, hd] at h
          exact .inl ⟨e, rfl, by simpa using h.symm⟩
        | ok i =>
          simp only [hf, hr, hc, performCommand, hd] at h
          exact .inr ⟨i, rfl, h⟩

end Sys2Proof.Machine
end

