-- ==== Sys2Proof/Laws/Operands.lean ====
section
/-! SUPPORT. The bits of what commands compute from their operands. -/

namespace Sys2Proof.Machine

@[simp] theorem bit16_getLsbD (b : Bool) (j : Nat) : (bit16 b).getLsbD j = (decide (j = 0) && b) := by
  cases b <;> rcases j with _ | j <;> simp [bit16]

/-- Channel mask ch has exactly bit ch set. -/
theorem chMask_getLsbD (ch : Fin 16) (j : Nat) : (chMask ch).getLsbD j = decide (j = ch.val) := by
  have := ch.isLt
  simp only [chMask, BitVec.getLsbD_ofNat, Nat.one_shiftLeft, Nat.testBit_two_pow]
  by_cases h : j = ch.val
  · simp [h]
  · simp [h, Ne.symm h]

/-- CH.RD's word is the channel's bit. -/
theorem chBit_eq (r : U16) (ch : Fin 16) : chBit r ch = bit16 (r.getLsbD ch.val) := by
  refine BitVec.eq_of_getLsbD_eq fun j hj => ?_
  rw [chBit, BitVec.getLsbD_and, BitVec.getLsbD_ushiftRight, bit16_getLsbD]
  rcases j with _ | j
  · simp
  · simp

/-- `lowmask n` has exactly the bits below n set. -/
theorem lowmask_getLsbD (n j : Nat) (hj : j < 16) : (lowmask n).getLsbD j = decide (j < n) := by
  rw [lowmask, BitVec.getLsbD_ofNat, Nat.one_shiftLeft, Nat.testBit_two_pow_sub_one]
  simp [hj]

/-- `pack buf n` has bit j set exactly when j < n and byte j is not zero. -/
theorem pack_getLsbD (buf : List U8) (n j : Nat) (hj : j < 16) :
    (pack buf n).getLsbD j = (decide (j < n) && byteSet (buf.getD j 0x00#8)) := by
  induction n with
  | zero => simp [pack]
  | succ n ih =>
    rw [pack, BitVec.getLsbD_or, ih, BitVec.getLsbD_shiftLeft, bit16_getLsbD]
    rcases Nat.lt_trichotomy j n with h | rfl | h
    · simp [h, Nat.lt_succ_of_lt h]
    · simp [hj]
    · have h1 : ¬ j < n := by omega
      have h2 : ¬ j < n + 1 := by omega
      have h3 : j - n ≠ 0 := by omega
      simp [h1, h2, h3]

@[simp] theorem unpack_length (r : U16) (n : Nat) : (unpack r n).length = n := by simp [unpack]

theorem unpack_getElem? (r : U16) (n j : Nat) (h : j < n) : (unpack r n)[j]? = some (bit8 (r.getLsbD j)) := by
  simp [unpack, h]

/-- Every byte of `unpack` is 0x00 or 0x01. -/
theorem unpack_bytes (r : U16) (n : Nat) : ∀ b ∈ unpack r n, b = 0x00#8 ∨ b = 0x01#8 := by
  intro b hb
  obtain ⟨j, -, rfl⟩ := List.mem_map.1 hb
  cases r.getLsbD j <;> simp [bit8]

/-- BLK.WR's word: the low n bits from the buffer, the others from r. -/
theorem blockWord_getLsbD (r : U16) (buf : List U8) (n j : Nat) (hj : j < 16) :
    (blockWord r buf n).getLsbD j = if j < n then byteSet (buf.getD j 0x00#8) else r.getLsbD j := by
  rw [blockWord, BitVec.getLsbD_or, BitVec.getLsbD_and, BitVec.getLsbD_not, lowmask_getLsbD n j hj,
    pack_getLsbD buf n j hj]
  by_cases h : j < n <;> simp [h, hj]

theorem sizeInvalid_iff (size : Int) : sizeInvalid size = true ↔ size < 0 ∨ 16 < size := by
  simp [sizeInvalid]

end Sys2Proof.Machine
end

