-- ==== Sys2Proof/Laws/PerInstr.lean ====
section
/-! SUPPORT. Family `EncodedOpcode`: the word of a command carries the command's opcode (30_encoding.md R63), one lemma
per constructor. -/

namespace Sys2Proof.Laws.EncodedOpcode

/-- A field below bit 28 leaves the opcode of the word it is put into alone. -/
theorem opField_or (a b : U32) (h : b.extractLsb' 28 4 = 0#4) : opField (a ||| b) = opField a := by
  rw [opField, BitVec.extractLsb'_or, h, BitVec.or_zero, opField]

theorem high_of_half (v : U16) : (v.setWidth 32).extractLsb' 28 4 = 0#4 := by
  refine BitVec.eq_of_getLsbD_eq fun j hj => ?_
  rw [BitVec.getLsbD_extractLsb', BitVec.getLsbD_setWidth, BitVec.getLsbD_of_ge v _ (by omega)]
  simp

theorem high_of_fin (ch : Fin 16) : (BitVec.ofNat 32 ch.val).extractLsb' 28 4 = 0#4 := by
  revert ch; decide

/-- The word's OP field is the match of the row whose op is the command's. -/
def Statement (i : Instr) : Prop :=
  ∀ r ∈ opcodeTable, r.op = i.op → opField (encode i) = opField r.word

/-- The statement from the row of one opcode. -/
theorem of_row {i : Instr} {w : U32} (hw : ∀ r ∈ opcodeTable, r.op = i.op → r.word = w)
    (h : opField (encode i) = opField w) : Statement i := fun r hr ho => by rw [hw r hr ho, h]

theorem regRd : Statement .regRd := of_row (w := 0x00000000#32) (by decide) rfl
theorem regWr (v : U16) : Statement (.regWr v) :=
  of_row (w := 0x10000000#32) (by simp only [Instr.op]; decide) (opField_or _ _ (high_of_half v))
theorem regSet (m : U16) : Statement (.regSet m) :=
  of_row (w := 0x20000000#32) (by simp only [Instr.op]; decide) (opField_or _ _ (high_of_half m))
theorem regClr (m : U16) : Statement (.regClr m) :=
  of_row (w := 0x30000000#32) (by simp only [Instr.op]; decide) (opField_or _ _ (high_of_half m))
theorem idDump (len : Nat) : Statement (.idDump len) :=
  of_row (w := 0x40000000#32) (by simp only [Instr.op]; decide) (opField_or _ _ (high_of_half _))
theorem chRd (ch : Fin 16) : Statement (.chRd ch) :=
  of_row (w := 0x50000000#32) (by simp only [Instr.op]; decide) (opField_or _ _ (high_of_fin ch))
theorem chWr (ch : Fin 16) (value : Bool) : Statement (.chWr ch value) :=
  of_row (w := 0x60000000#32) (by simp only [Instr.op]; decide)
    ((opField_or _ _ (high_of_fin ch)).trans (opField_or _ _ (by cases value <;> decide)))
theorem blkRd (size : Int) : Statement (.blkRd size) :=
  of_row (w := 0x70000000#32) (by simp only [Instr.op]; decide) (opField_or _ _ (high_of_half _))
theorem blkWr (size : Int) : Statement (.blkWr size) :=
  of_row (w := 0x80000000#32) (by simp only [Instr.op]; decide) (opField_or _ _ (high_of_half _))
theorem init (nochk : Bool) : Statement (.init nochk) :=
  of_row (w := 0x90000000#32) (by simp only [Instr.op]; decide) (opField_or _ _ (by cases nochk <;> decide))
theorem exit : Statement .exit := of_row (w := 0xA0000000#32) (by decide) rfl

end Sys2Proof.Laws.EncodedOpcode
end

