-- ==== Sys2Proof/Machine/Assembler.lean ====
section
/-! DEFINITION. The assembler of 30_encoding.md R75: one line of text, as a list of characters, to a command word and its
DIN. The machine does not use it. Punctuation between the parts of a line (space, comma, brackets, the sign =) only
separates them: notes/assumptions/15.md. -/

namespace Sys2Proof.Machine

/-- The names of R75. -/
def asmNames : List (List Char × AsmName) :=
  [ (['R', 'E', 'G', '.', 'R', 'D'],      .command .regRd),
    (['R', 'E', 'G', '.', 'W', 'R'],      .command .regWr),
    (['R', 'E', 'G', '.', 'S', 'E', 'T'], .command .regSet),
    (['R', 'E', 'G', '.', 'C', 'L', 'R'], .command .regClr),
    (['I', 'D', '.', 'D', 'U', 'M', 'P'], .command .idDump),
    (['C', 'H', '.', 'R', 'D'],           .command .chRd),
    (['C', 'H', '.', 'W', 'R'],           .command .chWr),
    (['B', 'L', 'K', '.', 'R', 'D'],      .command .blkRd),
    (['B', 'L', 'K', '.', 'W', 'R'],      .command .blkWr) ] ++
  [ (['I', 'N', 'I', 'T'],                .command .init),
    (['E', 'X', 'I', 'T'],                .command .exit),
    (['C', 'H', '.', 'S', 'E', 'T'],      .chSet),
    (['C', 'H', '.', 'C', 'L', 'E', 'A', 'R'], .chClear),
    (['I', 'N', 'I', 'T', '.', 'C', 'H', 'E', 'C', 'K'], .initCheck),
    (['I', 'N', 'I', 'T', '.', 'N', 'O', 'C', 'H', 'E', 'C', 'K'], .initNocheck),
    (['R', 'E', 'G', '.', 'Z', 'E', 'R', 'O'], .regZero) ]

/-- How the digit of value d is written: one numeral, or a letter in either case. -/
def digitChars (d : Nat) : List Char :=
  if d < 10 then [Char.ofNat (d + 0x30)] else [Char.ofNat (d + 0x37), Char.ofNat (d + 0x57)]

/-- Which digit of a base a character writes. -/
def digitOf (base : Nat) (c : Char) : Option Nat := (List.range base).find? fun d => (digitChars d).contains c

/-- Digits in a base, most significant first, after the value already read. -/
def digitsValue (base : Nat) (v : Nat) (digits : List Char) : Option Nat :=
  digits.foldlM (fun v c => (digitOf base c).map (base * v + ·)) v

/-- An unsigned number: hexadecimal with 0x, else decimal (R75). -/
def naturalOf : List Char → Option Nat
  | '0' :: 'x' :: c :: l => digitsValue 16 0 (c :: l)
  | c :: l               => digitsValue 10 0 (c :: l)
  | []                   => none

/-- A number, with a sign before it if it is negative. -/
def numberOf : List Char → Option Int
  | '-' :: l => (naturalOf l).map fun n => -(n : Int)
  | l        => (naturalOf l).map fun n => (n : Int)

/-- Numbers of a line; none if one is malformed. -/
def numbersOf : List (List Char) → Option (List Int)
  | []     => some []
  | t :: l =>
    match numberOf t, numbersOf l with
    | some n, some r => some (n :: r)
    | _, _           => none

/-- What separates the parts of a line. -/
def separates (c : Char) : Bool := c == ' ' || c == ',' || c == '[' || c == ']' || c == '='

/-- The parts of a line: the comment after `;` is dropped. -/
def lineParts (line : List Char) : List (List Char) :=
  let cut := fun c (acc : List (List Char)) =>
    if separates c then [] :: acc else
      match acc with
      | []     => [[c]]
      | t :: r => (c :: t) :: r
  ((line.takeWhile (· ≠ ';')).foldr cut []).filter (· ≠ [])

/-- A channel number. -/
def channelOf (n : Int) : Option (Fin 16) := if 0 ≤ n ∧ n ≤ 15 then some (Fin.ofNat 16 n.toNat) else none

/-- A one-bit operand. -/
def flagOf (n : Int) : Option Bool := if n = 0 then some false else if n = 1 then some true else none

/-- A 16-bit unsigned operand. -/
def v16Of (n : Int) : Option U16 := if 0 ≤ n ∧ n ≤ 65535 then some (BitVec.ofInt 16 n) else none

/-- The command a name and its operands spell, each operand in its range (R62). -/
def commandOf : AsmName → List Int → Option Instr
  | .command .regRd,  []       => some .regRd
  | .command .regWr,  [v]      => (v16Of v).map .regWr
  | .command .regSet, [v]      => (v16Of v).map .regSet
  | .command .regClr, [v]      => (v16Of v).map .regClr
  | .command .idDump, [n]      => if 0 ≤ n ∧ lenOk n.toNat then some (.idDump n.toNat) else none
  | .command .chRd,   [c]      => (channelOf c).map .chRd
  | .command .chWr,   [c, v]   => (channelOf c).bind fun ch => (flagOf v).map (.chWr ch)
  | .command .blkRd,  [n]      => if sizeOk n then some (.blkRd n) else none
  | .command .blkWr,  [n]      => if sizeOk n then some (.blkWr n) else none
  | .command .init,   [b]      => (flagOf b).map .init
  | .command .exit,   []       => some .exit
  | .chSet,           [c]      => (channelOf c).map fun ch => (Pseudo.chSet ch).expand
  | .chClear,         [c]      => (channelOf c).map fun ch => (Pseudo.chClear ch).expand
  | .initCheck,       []       => some Pseudo.initCheck.expand
  | .initNocheck,     []       => some Pseudo.initNocheck.expand
  | .regZero,         []       => some Pseudo.regZero.expand
  | _,                _        => none

/-- The bytes after `din`, at most 16. -/
def dinOfParts (l : List (List Char)) : Option (List U8) :=
  match numbersOf l with
  | some r =>
    if r.length ≤ 16 ∧ ∀ n ∈ r, 0 ≤ n ∧ n ≤ 255 then some (r.map (BitVec.ofInt 8)) else none
  | none => none

/-- The word and DIN of one line (R75); none if the line is no command. -/
def assemble (line : List Char) : Option (U32 × Vector U8 16) :=
  match lineParts line with
  | [] => none
  | t :: args =>
    match asmNames.lookup t with
    | none => none
    | some name =>
      let operands := args.takeWhile (· ≠ ['d', 'i', 'n'])
      let din := (args.dropWhile (· ≠ ['d', 'i', 'n'])).drop 1
      if args.contains ['d', 'i', 'n'] && name ≠ .command .blkWr then none else
        match numbersOf operands, dinOfParts din with
        | some ns, some bytes => (commandOf name ns).map fun i => (encode i, dinOfList bytes)
        | _, _ => none

end Sys2Proof.Machine
end

