-- ==== Sys2Proof/Tests/Slice0.lean ====
section
/-! SUPPORT. The model's own tests: words written out from the encodings of R61 and R63, checks of WellFormed, vectors of
spec/95_test_vectors.md (named V<n> and W<n> there), and for each statement with hypotheses a state that meets them. -/

namespace Sys2Proof.Tests

open Sys2Proof.Machine

/-! ### Small states -/

/-- A header with the given first two words. -/
def header (w0 w1 : U16) : Vector U16 64 :=
  Vector.ofFn fun k => if k.val = 0 then w0 else if k.val = 1 then w1 else BitVec.ofNat 16 (0x100 + k.val)

/-- M = 0x4D4D, (A, B, C) = (0xA0A0, 0xB0B0, 0xC0C0), register offset 254. -/
def sampleParams : Config.Params := ⟨.byte 254, 0x4D4D#16, ⟨0xA0A0#16, 0xB0B0#16, 0xC0C0#16, by decide⟩, ⟨.high, .low⟩⟩

/-- Inputs with the given DIN, storage available; `busFaultAt` names the access that faults. -/
def sampleInputs (din : List U8) (busFaultAt : Option Nat) : Inputs := ⟨dinOfList din, true, busFaultAt, 0x5EED#16⟩

/-- One command of the host, with no fault. -/
def command (w : U32) : Command := ⟨w, sampleInputs [] none⟩

/-- UNINIT(r) of 95_test_vectors.md, with a list of commands. -/
def uninit (r : U16) (l : List Command) : State := State.powerUp sampleParams (header 0x4D4D#16 0xB0B0#16) r l

/-- READY(r) of 95_test_vectors.md, with a list of commands. -/
def ready (r : U16) (l : List Command) : State := { uninit r l with lstate := .ready, idchk := false }

/-- The state after one step; none if there is no step. -/
def after (s : State) : Option State :=
  match step s with
  | .next t => some t
  | .fault _ => none
  | .refused _ => none

/-- What a vector lists: RSP, REG, and what BUSLOG gains from empty. -/
def seen (s : State) : Option (Response × U16 × List BusEntry) := (after s).map fun t => (t.rsp, t.reg, t.busLog)

/-- Why the step refused. -/
def refusal (s : State) : Option RefuseReason := (after s).bind State.refused

/-! ### Well-formedness -/

theorem test_wf_refuses_long_len : (Instr.idDump 65536).wf = false := by decide
theorem test_wf_refuses_large_size : (Instr.blkRd 32768).wf = false := by decide
theorem test_wf_refuses_small_size : (Instr.blkWr (-32769)).wf = false := by decide

/-! ### Decoding: words written out bit by bit, OP first -/

theorem test_decode_regRd : decode 0b0000_0000_0000_0000_0000_0000_0000_0000#32 = .ok .regRd := by rfl
theorem test_decode_regWr : decode 0b0001_0000_0000_0000_1000_0000_0000_0001#32 = .ok (.regWr 0x8001#16) := by rfl
theorem test_decode_regSet : decode 0b0010_0000_0000_0000_0000_0001_0000_0001#32 = .ok (.regSet 0x0101#16) := by rfl
theorem test_decode_regClr : decode 0b0011_0000_0000_0000_0000_0000_0001_0001#32 = .ok (.regClr 0x0011#16) := by rfl
theorem test_decode_idDump : decode 0b0100_0000_0000_0000_1111_1111_1111_1111#32 = .ok (.idDump 65535) := by rfl
theorem test_decode_chRd : decode 0b0101_0000_0000_0000_0000_0000_0000_1000#32 = .ok (.chRd 8) := by rfl
theorem test_decode_chWr : decode 0b0110_0000_0000_0000_0000_0000_0001_0011#32 = .ok (.chWr 3 true) := by rfl
theorem test_decode_blkRd : decode 0b0111_0000_0000_0000_1000_0000_0000_0000#32 = .ok (.blkRd (-32768)) := by rfl
theorem test_decode_blkWr : decode 0b1000_0000_0000_0000_0000_0000_0000_1111#32 = .ok (.blkWr 15) := by rfl
theorem test_decode_init : decode 0b1001_0000_0000_0000_0000_0000_0000_0001#32 = .ok (.init true) := by rfl
theorem test_decode_exit : decode 0b1010_0000_0000_0000_0000_0000_0000_0000#32 = .ok .exit := by rfl
theorem test_decode_reserved_opcode : decode 0b1011_0000_0000_0000_0000_0000_0000_0000#32 = .error .opcode := by rfl
theorem test_decode_reserved_bit : decode 0b0001_0000_0000_0001_0000_0000_0000_0000#32 = .error .bits := by rfl
theorem test_encode_blkRd : encode (.blkRd (-1)) = 0x7000FFFF#32 := by decide
theorem test_encode_chWr : encode (.chWr 3 true) = 0x60000013#32 := by decide
theorem test_tableWord_init : decodeTableWord 32 0x90000000 = some (.init false) := by rfl
theorem test_tableWord_refuses : decodeTableWord 32 0xF0000000 = none := by rfl

/-- R75: the pseudo-commands' words. -/
theorem test_pseudo_words : encode (Pseudo.chSet 15).expand = 0x6000001F#32 ∧ encode Pseudo.initNocheck.expand = 0x90000001#32
    ∧ encode Pseudo.regZero.expand = 0x10000000#32 := by decide

/-- V59, P3: lines of R75 and their words. -/
theorem test_assemble_blkWr : assemble "BLK.WR 4, din=[1,0,1,0] ; W8".toList =
    some (0x80000004#32, dinOfList [1, 0, 1, 0]) := by decide
theorem test_assemble_words : (assemble "CH.SET 15".toList).map Prod.fst = some 0x6000001F#32 ∧
    (assemble "BLK.RD -1".toList).map Prod.fst = some 0x7000FFFF#32 ∧
    (assemble "REG.SET 0x0101".toList).map Prod.fst = some 0x20000101#32 ∧
    assemble "CH.RD 16".toList = none := by decide

/-- R61, R63: every mask is the opcode field and the format's Z bits. -/
theorem test_masks : ∀ r ∈ opcodeTable, r.mask = 0xF0000000#32 ||| r.format.zMask := by decide

/-- R6: the parameters the document repeats agree with each other. -/
theorem test_fixed_parameters : Config.nCh * Config.chWidth = Config.regWidth ∧ Config.idhWords * 2 = Config.idhBytes ∧
    2 ^ Config.asAddrWidth = Config.asBytes ∧ Config.busWidthUsed ∈ Config.busWidths := by decide

/-- R73: the status numbers. -/
theorem test_status_codes : [Status.ok, .invalidSize, .badMagic, .unknownModel, .bufferTooSmall, .allocFail].map Status.code =
    [0#4, 1#4, 2#4, 3#4, 4#4, 5#4] := by decide

/-! ### One step -/

/-- V1 -/
theorem test_regRd : seen (ready 0x1234#16 [command 0x00000000#32]) =
    some (⟨.ok, 0x1234#16, 0, [], []⟩, 0x1234#16, [.rd 0x1234#16]) := by decide
/-- V3 -/
theorem test_regWr : seen (ready 0x1234#16 [command 0x1000FF00#32]) =
    some (⟨.ok, 0, 0, [], []⟩, 0xFF00#16, [.wr 0xFF00#16]) := by decide
/-- V6 -/
theorem test_regSet : seen (ready 0x00F0#16 [command 0x20000101#32]) =
    some (⟨.ok, 0, 0, [], []⟩, 0x01F1#16, [.rd 0x00F0#16, .wr 0x01F1#16]) := by decide
/-- the bus-fault vector of part 2.1: the write faults, and REG is what the inputs leave in it -/
theorem test_regSet_write_faults :
    (after (ready 0x1234#16 [⟨0x20000001#32, sampleInputs [] (some 1)⟩])).map (fun t => (t.reg, t.busLog, t.fault, t.pc)) =
    some (0x5EED#16, [.rd 0x1234#16], .busFault, 0) := by decide
/-- V9 -/
theorem test_regClr : seen (ready 0x01F1#16 [command 0x30000011#32]) =
    some (⟨.ok, 0, 0, [], []⟩, 0x01E0#16, [.rd 0x01F1#16, .wr 0x01E0#16]) := by decide
/-- V27 -/
theorem test_idDump : seen (ready 0x0000#16 [command 0x40000080#32]) =
    some (⟨.ok, 0, 0, [], (header 0x4D4D#16 0xB0B0#16).toList⟩, 0, []) := by decide
/-- V28 -/
theorem test_idDump_short : seen (ready 0x0000#16 [command 0x4000007F#32]) =
    some (⟨.bufferTooSmall, 0, 0, [], []⟩, 0, []) := by decide
/-- V42 -/
theorem test_chRd : seen (ready 0x8000#16 [command 0x5000000F#32]) =
    some (⟨.ok, 1, 0, [], []⟩, 0x8000#16, [.rd 0x8000#16]) := by decide
/-- V46 -/
theorem test_chWr_clears : seen (ready 0xFFFF#16 [command 0x6000000F#32]) =
    some (⟨.ok, 0, 0, [], []⟩, 0x7FFF#16, [.rd 0xFFFF#16, .wr 0x7FFF#16]) := by decide
/-- V48 -/
theorem test_chWr_sets : seen (ready 0x0000#16 [command 0x6000001F#32]) =
    some (⟨.ok, 0, 0, [], []⟩, 0x8000#16, [.rd 0x0000#16, .wr 0x8000#16]) := by decide
/-- V51 -/
theorem test_blkRd : seen (ready 0x0008#16 [command 0x70000005#32]) =
    some (⟨.ok, 0, 5, [0, 0, 0, 1, 0], []⟩, 0x0008#16, [.rd 0x0008#16]) := by decide
/-- V57 -/
theorem test_blkRd_negative : seen (ready 0x0000#16 [command 0x70008000#32]) =
    some (⟨.invalidSize, 0, 0, [], []⟩, 0, []) := by decide
/-- V59, W8 -/
theorem test_blkWr : seen (ready 0xFF00#16 [⟨0x80000004#32, sampleInputs [1, 0, 1, 0] none⟩]) =
    some (⟨.ok, 0, 4, [], []⟩, 0xFF05#16, [.rd 0xFF00#16, .wr 0xFF05#16]) := by decide
/-- V63: any nonzero byte is 1 -/
theorem test_blkWr_nonzero : seen (ready 0x0000#16 [⟨0x80000003#32, sampleInputs [0x80, 0x00, 0xFF] none⟩]) =
    some (⟨.ok, 0, 3, [], []⟩, 0x0005#16, [.rd 0x0000#16, .wr 0x0005#16]) := by decide
/-- V24: both identity words wrong -/
theorem test_init_both_wrong :
    seen { uninit 0x0001#16 [command 0x90000000#32] with idh := header 0x1111#16 0xDDDD#16 } =
    some (⟨.badMagic, 0, 0, [], []⟩, 0x0001#16, []) := by decide
/-- V81 -/
theorem test_init : (after (uninit 0x1234#16 [command 0x90000000#32])).map
    (fun t => (t.rsp.status, t.reg, t.lstate, t.idchk, t.busLog)) = some (.ok, 0, .ready, true, [.wr 0]) := by decide
/-- V85 -/
theorem test_exit : (after (ready 0xABCD#16 [command 0xA0000000#32])).map
    (fun t => (t.rsp.status, t.reg, t.lstate, t.idchk, t.busLog)) = some (.ok, 0, .uninit, true, [.wr 0]) := by decide
/-- V92, V93, V94: the order of the checks -/
theorem test_decode_order : refusal (ready 0 [command 0xC0000001#32]) = some .reservedOpcode ∧
    refusal (uninit 0 [command 0x50000010#32]) = some .reservedBits ∧
    refusal (uninit 0 [command 0x7000FFFF#32]) = some .wrongState := by decide
/-- a word placed with withFetchWord is the next one performed, from reset too -/
theorem test_withFetchWord : seen ((ready 0x1234#16 []).withFetchWord 32 0x1000FF00) =
    some (⟨.ok, 0, 0, [], []⟩, 0xFF00#16, [.wr 0xFF00#16]) := by decide
theorem test_withFetchWord_from_reset : (after (State.reset.withFetchWord 32 0x90000001)).map
    (fun t => (t.rsp.status, t.reg, t.lstate, t.idchk, t.busLog)) = some (.ok, 0, .ready, false, [.wr 0]) := by decide
theorem test_withFetchWord_refused_from_reset : refusal (State.reset.withFetchWord 32 0x00000000) = some .wrongState := by decide

/-! ### Witnesses: for each statement with hypotheses, a state and operands that meet them, clause by clause -/

/-- A READY state with the check enabled and passed, one command in its list. -/
def ready1 (c : Command) : State := { uninit 0x1234#16 [c] with lstate := .ready }

theorem ready1_inv (c : Command) : (ready1 c).inv :=
  ⟨by simp [ready1], fun _ _ => ⟨by rfl, by rfl⟩, ⟨Nat.zero_le _, Nat.zero_le _, (fun _ h => nomatch h), .inl rfl,
    fun h => absurd rfl h⟩, .inl rfl, Nat.zero_le _⟩

theorem witness_PowerUpAcceptsOnlyInit :
    decode 0x00000000#32 = .ok .regRd ∧ (∀ b, Instr.regRd ≠ .init b) ∧
    decode 0x90000000#32 = .ok (.init false) ∧ regOffsetLegal (.byte 254) = true :=
  ⟨by rfl, by decide, by rfl, by decide⟩
theorem witness_EveryStepKeepsTheInvariant :
    (ready1 (command 0xA0000000#32)).inv ∧ ∃ t, step (ready1 (command 0xA0000000#32)) = .next t := ⟨ready1_inv _, _, rfl⟩
theorem witness_EveryStepKeepsReadBack :
    (ready1 (command 0x20000001#32)).readBack 0x1234#16 ∧ ∃ t, step (ready1 (command 0x20000001#32)) = .next t :=
  ⟨⟨trivial, fun _ => rfl⟩, _, rfl⟩
theorem witness_DecodeInvertsEncode :
    (Instr.blkRd (-32768)).wf = true ∧ (Instr.blkWr 32767).wf = true ∧ (Instr.idDump 65535).wf = true := by decide
theorem witness_EncodeInvertsDecode : decode 0x70008000#32 = .ok (.blkRd (-32768)) := by rfl
theorem witness_ExactlyOneRowSelectsASpelledWord :
    (∃ r ∈ opcodeTable, opField 0xA0000000#32 = opField r.word ∧ 0xA0000000#32 &&& r.format.zMask = 0#32) ∧
    (∀ r ∈ opcodeTable, opField 0xB0000000#32 = opField r.word → 0xB0000000#32 &&& r.format.zMask ≠ 0#32) ∧
    (∀ r ∈ opcodeTable, opField 0x50000010#32 = opField r.word → 0x50000010#32 &&& r.format.zMask ≠ 0#32) := by decide
theorem witness_StepPerformsTheDecodedCommand :
    (ready 0 [command 0x60000013#32]).running ∧ (ready 0 [command 0x60000013#32]).fetch = some (command 0x60000013#32) ∧
    decode (command 0x60000013#32).cmd = .ok (.chWr 3 true) := ⟨by decide, by decide, by rfl⟩
theorem witness_ReservedOpcodesAreRefused :
    (ready 0 [command 0xB0000000#32]).running ∧ (ready 0 [command 0xB0000000#32]).fetch = some (command 0xB0000000#32) ∧
    0xB#4 ≤ opField (command 0xB0000000#32).cmd := by decide
theorem witness_ReservedBitsAreRefused :
    (ready 0 [command 0x50000010#32]).running ∧ (ready 0 [command 0x50000010#32]).fetch = some (command 0x50000010#32) ∧
    ∃ r ∈ opcodeTable, opField (command 0x50000010#32).cmd = opField r.word ∧
      (command 0x50000010#32).cmd &&& r.format.zMask ≠ 0#32 := by decide
theorem witness_NoStepAfterAFaultOrARefusal :
    (ready 0 []).busFault.fault = .busFault ∧
    ((ready 0 []).refuse .wrongState).fault = .none ∧ ((ready 0 []).refuse .wrongState).refused = some .wrongState := by decide
theorem witness_CommandsInTheWrongStateAreRefused :
    (ready 0 []).lstate ≠ .uninit ∧ (∀ b, Instr.exit ≠ .init b) ∧ (uninit 0 []).lstate ≠ .ready := by decide
theorem witness_IllegalRegisterOffsetIsRefused_odd :
    let s := { ready 0 [] with params := { sampleParams with regOffset := .byte 253 } }
    s.lstate = needs .regRd ∧ regOffsetByte s.params.regOffset % 2 = 1 := by decide
theorem witness_IllegalRegisterOffsetIsRefused_high :
    let s := { uninit 0 [] with params := { sampleParams with regOffset := .byte 256 } }
    s.lstate = needs (.init true) ∧ 254 < regOffsetByte s.params.regOffset := by decide
theorem witness_EveryStepCompletesFaultsOrRefuses : ∃ t, step (ready 0 [command 0xA0000000#32]) = .next t := ⟨_, rfl⟩
theorem witness_EveryRunEndsWithinItsCommands :
    (ready 0 [command 0x00000000#32, command 0xF0000000#32]).running ∧
    (ready 0 [command 0x00000000#32, command 0xF0000000#32]).pc ≤ 2 := by decide

/-- A READY state whose one command has the given bus draw. -/
def readyBus (f : Option Nat) : State := ready 0x1234#16 [⟨0x00000000#32, sampleInputs [1, 0, 0xFF] f⟩]

theorem witness_RegRdAnswersTheRegister : (readyBus none).accepts .regRd ∧
    (readyBus none).inputs.dBus 0 = true ∧ (readyBus (some 0)).inputs.dBus 0 = false := by decide
theorem witness_RegWrWritesTheRegister : (readyBus none).accepts (.regWr 0xFFFF#16) ∧
    (readyBus none).inputs.dBus 0 = true ∧ (readyBus (some 0)).inputs.dBus 0 = false := by decide
theorem witness_RegSetSetsTheMask : (readyBus (some 1)).accepts (.regSet 0x8001#16) ∧
    ((readyBus none).inputs.dBus 0 = true ∧ (readyBus none).inputs.dBus 1 = true) ∧
    (readyBus (some 0)).inputs.dBus 0 = false ∧
    ((readyBus (some 1)).inputs.dBus 0 = true ∧ (readyBus (some 1)).inputs.dBus 1 = false) := by decide
theorem witness_RegClrClearsTheMask : (readyBus (some 1)).accepts (.regClr 0x8001#16) ∧
    ((readyBus none).inputs.dBus 0 = true ∧ (readyBus none).inputs.dBus 1 = true) ∧
    (readyBus (some 0)).inputs.dBus 0 = false ∧
    ((readyBus (some 1)).inputs.dBus 0 = true ∧ (readyBus (some 1)).inputs.dBus 1 = false) := by decide

/-- A READY state whose host issues i and then j. -/
def issuing (i j : Instr) : State := ready 0x1234#16 [command (encode i), command (encode j)]

theorem issuing_first (i j : Instr) : (issuing i j).issues 0 i := ⟨_, rfl, rfl⟩
theorem issuing_second (i j : Instr) : (issuing i j).issues 1 j := ⟨_, rfl, rfl⟩
theorem issuing_operational (i j : Instr) : (issuing i j).operational := ⟨⟨rfl, rfl⟩, rfl, rfl⟩

theorem witness_RegisterPrimitivesCompose_setClr :
    let s := issuing (.regSet 0x00F0#16) (.regClr 0x00F0#16)
    s.operational ∧ s.issues 0 (.regSet 0x00F0#16) ∧ s.issues 1 (.regClr 0x00F0#16) :=
  ⟨issuing_operational _ _, issuing_first _ _, issuing_second _ _⟩
theorem witness_RegisterPrimitivesCompose_clrSet :
    let s := issuing (.regClr 0xFFFF#16) (.regSet 0xFFFF#16)
    s.operational ∧ s.issues 0 (.regClr 0xFFFF#16) ∧ s.issues 1 (.regSet 0xFFFF#16) :=
  ⟨issuing_operational _ _, issuing_first _ _, issuing_second _ _⟩
theorem witness_RegisterPrimitivesCompose_setSet :
    let s := issuing (.regSet 0x0001#16) (.regSet 0x8000#16)
    s.operational ∧ s.issues 0 (.regSet 0x0001#16) ∧ s.issues 1 (.regSet 0x8000#16) :=
  ⟨issuing_operational _ _, issuing_first _ _, issuing_second _ _⟩
theorem witness_RegisterPrimitivesCompose_wrRd :
    let s := issuing (.regWr 0x8000#16) .regRd
    s.operational ∧ s.issues 0 (.regWr 0x8000#16) ∧ s.issues 1 .regRd :=
  ⟨issuing_operational _ _, issuing_first _ _, issuing_second _ _⟩

theorem witness_IdDumpAnswersTheWholeHeader : (readyBus none).accepts (.idDump 127) ∧ (readyBus none).accepts (.idDump 128) ∧
    (∀ k < 64, (readyBus none).inputs.dBus k = true) ∧ (∃ k < 64, (readyBus (some 63)).inputs.dBus k = false) :=
  ⟨by decide, by decide, by decide, 63, by decide, by decide⟩

/-- An UNINIT state with the given header words and bus draw. -/
def uninitBus (w0 w1 : U16) (f : Option Nat) : State :=
  { uninit 0x1234#16 [⟨0x90000000#32, sampleInputs [] f⟩] with idh := header w0 w1 }

theorem witness_InitReportsAFailedIdentityCheck_magic :
    let s := uninitBus 0x4D4C#16 0xDDDD#16 (some 2)
    s.accepts (.init false) ∧ s.inputs.alloc = true ∧ s.inputs.dBus 0 = true ∧ s.inputs.dBus 1 = true ∧
      s.idh[0] ≠ s.params.magic := by decide
theorem witness_InitReportsAFailedIdentityCheck_model :
    let s := uninitBus 0x4D4D#16 0x4D4D#16 none
    s.accepts (.init false) ∧ s.inputs.alloc = true ∧ s.inputs.dBus 0 = true ∧ s.inputs.dBus 1 = true ∧
      s.idh[0] = s.params.magic ∧ s.idh[1] ≠ s.params.modelCodes.codeA ∧ s.idh[1] ≠ s.params.modelCodes.codeB ∧
      s.idh[1] ≠ s.params.modelCodes.codeC := by decide
theorem witness_InitReportsAFailedIdentityCheck_fault :
    let s := uninitBus 0x4D4D#16 0xA0A0#16 (some 1)
    s.accepts (.init false) ∧ s.inputs.alloc = true ∧ (s.inputs.dBus 0 = false ∨ s.inputs.dBus 1 = false) := by decide
theorem witness_OnlyInitReportsIdentityErrors :
    let s := uninitBus 0x4D4C#16 0xDDDD#16 none
    ∃ t, exec (.init false) s = .next t ∧ t.pc = s.pc + 1 ∧ t.rsp.status = .badMagic := ⟨_, rfl, by decide, by decide⟩
theorem witness_StepKeepsHeaderParametersAndLog : ∃ t, step (ready 0 [command 0x6000001F#32]) = .next t := ⟨_, rfl⟩
theorem witness_OnlyIdDumpSeesTheOtherHeaderWords :
    let s := uninitBus 0x4D4D#16 0xC0C0#16 none
    let idh' : Vector U16 64 := Vector.ofFn fun k => if k.val = 0 then 0x4D4D#16 else if k.val = 1 then 0xC0C0#16 else 0#16
    (∀ len, Instr.init false ≠ .idDump len) ∧ idh'[0] = s.idh[0] ∧ idh'[1] = s.idh[1] ∧ idh' ≠ s.idh ∧
      ∃ t, exec (.init false) s = .next t := ⟨by simp, by decide, by decide, by decide, _, rfl⟩

theorem witness_ChRdAnswersTheChannel : (readyBus none).accepts (.chRd 15) ∧
    (readyBus none).inputs.dBus 0 = true ∧ (readyBus (some 0)).inputs.dBus 0 = false := by decide
theorem witness_ChWrWritesOneChannel : (readyBus (some 1)).accepts (.chWr 15 false) ∧
    ((readyBus none).inputs.dBus 0 = true ∧ (readyBus none).inputs.dBus 1 = true) ∧
    (readyBus (some 0)).inputs.dBus 0 = false ∧
    ((readyBus (some 1)).inputs.dBus 0 = true ∧ (readyBus (some 1)).inputs.dBus 1 = false) := by decide
theorem witness_ChannelWritesAreIsolated :
    let s := issuing (.chWr 15 true) (.chRd 0)
    s.operational ∧ s.issues 0 (.chWr 15 true) ∧ s.issues 1 (.chRd 0) :=
  ⟨issuing_operational _ _, issuing_first _ _, issuing_second _ _⟩
theorem witness_BlkRdUnpacksTheRegister : (readyBus none).accepts (.blkRd 17) ∧ (readyBus none).accepts (.blkRd (0 : Nat)) ∧ (readyBus none).accepts (.blkRd (16 : Nat)) ∧
    (readyBus none).inputs.dBus 0 = true ∧ (readyBus (some 0)).inputs.dBus 0 = false := by decide
theorem witness_InvalidSizeIsForOutOfRangeSizes :
    (readyBus none).accepts (.blkRd (-1)) ∧ (readyBus none).accepts (.blkWr 17) ∧ (readyBus none).accepts (.blkWr 16) ∧
    ((-1 : Int) < 0 ∨ 16 < (-1 : Int)) ∧ ((17 : Int) < 0 ∨ 16 < (17 : Int)) ∧
    ∃ t, exec (.blkWr 16) (readyBus none) = .next t ∧ t.pc = (readyBus none).pc + 1 :=
  ⟨by decide, by decide, by decide, by decide, by decide, _, rfl, by decide⟩
theorem witness_BlkWrPacksTheLowChannels : (readyBus none).accepts (.blkWr (-1)) ∧ (readyBus (some 1)).accepts (.blkWr (16 : Nat)) ∧
    ((readyBus none).inputs.dBus 0 = true ∧ (readyBus none).inputs.dBus 1 = true) ∧
    (readyBus (some 0)).inputs.dBus 0 = false ∧
    ((readyBus (some 1)).inputs.dBus 0 = true ∧ (readyBus (some 1)).inputs.dBus 1 = false) := by decide
theorem witness_BlockWriteThenReadRoundTrips :
    let s := issuing (.blkWr (15 : Nat)) (.blkRd (15 : Nat))
    s.operational ∧ s.issues 0 (.blkWr (15 : Nat)) ∧ s.issues 1 (.blkRd (15 : Nat)) ∧
      ∀ j : Fin 16, j.val < 15 → s.inputs.din[j] = 0x00#8 ∨ s.inputs.din[j] = 0x01#8 :=
  ⟨issuing_operational _ _, issuing_first _ _, issuing_second _ _, by decide⟩
theorem witness_UnusedDinBytesAreIgnored :
    let s := ready 0 [⟨0x80000002#32, sampleInputs [1, 0, 1] none⟩]
    let program' : List Command := [⟨0x80000002#32, sampleInputs [1, 0, 0] none⟩]
    { s with program := program' }.inputs = { s.inputs with din := { s with program := program' }.inputs.din } ∧
    (∀ n : Nat, Instr.blkWr 2 = .blkWr n →
      ∀ j : Fin 16, j.val < n → { s with program := program' }.inputs.din[j] = s.inputs.din[j]) ∧
    ∃ t, exec (.blkWr 2) s = .next t := by
  refine ⟨by decide, fun n hn => ?_, _, rfl⟩
  obtain rfl : n = 2 := by have := Instr.blkWr.inj hn; omega
  decide

theorem witness_InitWithoutTheCheckResetsTheRegister :
    (uninitBus 0 0 none).accepts (.init true) ∧ (uninitBus 0 0 none).inputs.alloc = true ∧
    (uninitBus 0 0 none).inputs.dBus 0 = true ∧ (uninitBus 0 0 (some 0)).inputs.dBus 0 = false := by decide
theorem witness_InitWithTheCheckResetsTheRegister :
    let s := uninitBus 0x4D4D#16 0xC0C0#16 none
    let s' := uninitBus 0x4D4D#16 0xC0C0#16 (some 2)
    s.accepts (.init false) ∧ s.inputs.alloc = true ∧ s.inputs.dBus 0 = true ∧ s.inputs.dBus 1 = true ∧
      s.idh[0] = s.params.magic ∧ (s.idh[1] = s.params.modelCodes.codeA ∨ s.idh[1] = s.params.modelCodes.codeB ∨
        s.idh[1] = s.params.modelCodes.codeC) ∧ s.inputs.dBus 2 = true ∧
      s'.inputs.dBus 0 = true ∧ s'.inputs.dBus 1 = true ∧ s'.inputs.dBus 2 = false := by decide
theorem witness_InitWithoutStorageFails :
    let s := uninit 0 [⟨0x90000001#32, { sampleInputs [] none with alloc := false }⟩]
    s.accepts (.init true) ∧ s.inputs.alloc = false := by decide

/-- An UNINIT state whose host issues INIT nochk and then j. -/
def initThen (nochk : Bool) (j : Instr) : State := uninit 0x1234#16 [command (encode (.init nochk)), command (encode j)]

theorem witness_ReadsAfterInitAreZero :
    (initThen false .regRd).running ∧ (initThen false .regRd).accepts (.init false) ∧ (initThen false .regRd).inputs.alloc = true ∧
    (initThen false .regRd).identityPasses ∧ (initThen false .regRd).issues 0 (.init false) ∧
    (initThen false .regRd).issues 1 .regRd ∧ (initThen false (.chRd 15)).issues 1 (.chRd 15) :=
  ⟨by decide, by decide, by decide, by decide, ⟨_, rfl, rfl⟩, ⟨_, rfl, rfl⟩, ⟨_, rfl, rfl⟩⟩
theorem witness_ExitResetsAndReleases : (uninit 0 []).lstate ≠ .ready ∧ (readyBus none).accepts .exit ∧
    (readyBus none).inputs.dBus 0 = true ∧ (readyBus (some 0)).inputs.dBus 0 = false ∧
    (∀ b, Instr.chWr 15 true ≠ .init b) ∧ ∃ t, exec .exit (readyBus none) = .next t :=
  ⟨by decide, by decide, by decide, by decide, by simp, _, rfl⟩
theorem witness_OnlyInitAndExitChangeTheLifecycle :
    (∃ t, exec (.init true) (uninitBus 0 0 none) = .next t ∧ t.lstate = .ready) ∧
    (∃ t, exec .exit (readyBus none) = .next t ∧ t.lstate = .uninit) ∧
    (∀ b, Instr.regRd ≠ .init b) ∧ Instr.regRd ≠ .exit :=
  ⟨⟨_, rfl, by decide⟩, ⟨_, rfl, by decide⟩, by decide, by decide⟩
theorem witness_AccessesAreTheListedOnes : (readyBus (some 1)).accepts (.chWr 0 true) ∧ (readyBus (some 1)).fault = .none := by decide
theorem witness_ErrorsChangeOnlyTheResponse :
    ∃ t, exec (.blkRd 17) (readyBus none) = .next t ∧ t.pc = (readyBus none).pc + 1 ∧ t.rsp.status ≠ .ok :=
  ⟨_, rfl, by decide, by decide⟩
theorem witness_RegChangesOnlyByALoggedWrite :
    ∃ t, exec (.regWr 0xFFFF#16) (readyBus none) = .next t ∧ t.fault = .none ∧ t.reg ≠ (readyBus none).reg :=
  ⟨_, rfl, by decide, by decide⟩
theorem witness_LegalRegisterOffsetsAreAlike :
    regOffsetLegal (readyBus none).params.regOffset = true ∧ regOffsetByte (.byte 0) % 2 = 0 ∧ regOffsetByte (.byte 0) ≤ 254 ∧
    ∃ t, exec .regRd (readyBus none) = .next t := ⟨by decide, by decide, by decide, _, rfl⟩
theorem witness_ExactlyThreeModelCodesAreAccepted :
    (let s := uninitBus 0x4D4D#16 0xC0C0#16 none
     s.params = sampleParams ∧ s.accepts (.init false) ∧ s.inputs.alloc = true ∧ s.inputs.busFaultAt = none ∧
       s.idh[0] = sampleParams.magic) ∧
    (let s := uninitBus 0x4D4D#16 0x4D4D#16 none
     s.params = sampleParams ∧ s.accepts (.init false) ∧ s.inputs.alloc = true ∧ s.inputs.busFaultAt = none ∧
       s.idh[0] = sampleParams.magic) :=
  ⟨⟨rfl, by decide, by decide, by decide, by decide⟩, rfl, by decide, by decide, by decide, by decide⟩

end Sys2Proof.Tests
end

section
/-! PROOFS. What a command can do, said once for two runs of it side by side (`exec_simulated`), and the two statements
of 00_scope.md that follow: how a command ends, and that the legal register offsets are alike. -/

namespace Sys2Proof.Machine

/-! ### Two runs of one command side by side -/

/-- One command performed from `s` and from `s'`: `R` relates the states in between, `Q` the two states it ends in. The
fields are what `R` must give to every read and survive of every update, and the four ends that must reach `Q`; an error
status is raised only where nothing has been done yet (R13). -/
structure Simulation (R Q : State → State → Prop) (s s' : State) : Prop where
  start      : R s s'
  lstate     : s'.lstate = s.lstate
  legal      : regOffsetLegal s'.params.regOffset = regOffsetLegal s.params.regOffset
  identity   : identityStatus s'.params (s'.idhWord 0) (s'.idhWord 1) =
    identityStatus s.params (s.idhWord 0) (s.idhWord 1)
  reg        : ∀ {u u'}, R u u' → u'.reg = u.reg
  draws      : ∀ {u u'}, R u u' → u'.inputs = { u.inputs with din := u'.inputs.din }
  logged     : ∀ {u u'}, R u u' → ∀ e, R (u.logged e) (u'.logged e)
  regWritten : ∀ {u u'}, R u u' → ∀ v, R (u.regWritten v) (u'.regWritten v)
  bound      : ∀ {u u'}, R u u' → ∀ chk, R (u.bound chk) (u'.bound chk)
  released   : ∀ {u u'}, R u u' → R u.released u'.released
  completes  : ∀ {u u'}, R u u' → ∀ {r : Response}, r.status = .ok → Q (u.latched r) (u'.latched r)
  raises     : ∀ {e}, e ≠ .ok → Q (raise e s) (raise e s')
  faults     : ∀ {u u'}, R u u' → Q u.busFault u'.busFault
  refuses    : ∀ r, Q (s.refuse r) (s'.refuse r)

namespace Simulation

variable {R Q : State → State → Prop} {s s' u u' : State}

theorem dBus (h : Simulation R Q s s') (hu : R u u') (k : Nat) : u'.inputs.dBus k = u.inputs.dBus k := by
  rw [h.draws hu]; rfl

theorem alloc (h : Simulation R Q s s') : s'.inputs.alloc = s.inputs.alloc := by rw [h.draws h.start]

theorem faultsOnWrite (h : Simulation R Q s s') (hu : R u u') : Q u.busFaultOnWrite u'.busFaultOnWrite := by
  have hr : u'.inputs.regAfterFault = u.inputs.regAfterFault := by rw [h.draws hu]
  rw [State.busFaultOnWrite, State.busFaultOnWrite, hr]
  exact h.faults (h.regWritten hu _)

/-- Both runs are refused for the same reason, or both reach the command's own rule. -/
theorem perform (h : Simulation R Q s s') {need : LState} {rule rule' : State → State}
    (hrule : Q (rule s) (rule' s')) : Q (perform need s rule) (perform need s' rule') := by
  obtain ⟨hl, hp⟩ | ⟨hl, hb, hp⟩ | ⟨hl, hb, hp⟩ := perform_cases need s rule <;> rw [hp]
  · rw [perform_wrongState (h.lstate ▸ hl)]
    exact h.refuses _
  · rw [perform_badParameter (h.lstate.trans hl) (h.legal.trans hb)]
    exact h.refuses _
  · rwa [perform_accepted (h.lstate.trans hl) (h.legal.trans hb)]

theorem memRead (h : Simulation R Q s s') (hu : R u u') {k : Nat} {after after' : U16 → State → State}
    (hafter : ∀ v {w w'}, R w w' → Q (after v w) (after' v w')) :
    Q (memRead k u after) (memRead k u' after') := by
  obtain ⟨hk, hm⟩ | ⟨hk, hm⟩ := memRead_cases k u after <;> rw [hm]
  · rw [memRead_completes ((h.dBus hu k).trans hk), h.reg hu]
    exact hafter _ (h.logged hu _)
  · rw [memRead_faults ((h.dBus hu k).trans hk)]
    exact h.faults hu

theorem memWrite (h : Simulation R Q s s') (hu : R u u') {k : Nat} {v : U16} {after after' : State → State}
    (hafter : ∀ {w w'}, R w w' → Q (after w) (after' w')) :
    Q (memWrite k v u after) (memWrite k v u' after') := by
  obtain ⟨hk, hm⟩ | ⟨hk, hm⟩ := memWrite_cases k v u after <;> rw [hm]
  · rw [memWrite_completes ((h.dBus hu k).trans hk)]
    exact hafter (h.logged (h.regWritten hu _) _)
  · rw [memWrite_faults ((h.dBus hu k).trans hk)]
    exact h.faultsOnWrite hu

theorem readModifyWrite (h : Simulation R Q s s') (hu : R u u') {f : U16 → U16} {after after' : State → State}
    (hafter : ∀ {w w'}, R w w' → Q (after w) (after' w')) :
    Q (readModifyWrite f u after) (readModifyWrite f u' after') :=
  h.memRead hu fun _ _ _ hw => h.memWrite hw hafter

/-- Both runs get the same answer from Validate, or both fault. -/
theorem validate (h : Simulation R Q s s') {after after' : Status → State → State}
    (hafter : ∀ st, Q (after st s) (after' st s')) : Q (validate s after) (validate s' after') := by
  by_cases hb : s.inputs.dBus 0 = true ∧ s.inputs.dBus 1 = true
  · obtain ⟨h0, h1⟩ := hb
    rw [validate_completes h0 h1,
      validate_completes ((h.dBus h.start 0).trans h0) ((h.dBus h.start 1).trans h1), h.identity]
    exact hafter _
  · have hb : s.inputs.dBus 0 = false ∨ s.inputs.dBus 1 = false := by
      simpa [Classical.or_iff_not_imp_left] using hb
    rw [validate_faults hb, validate_faults (by rwa [h.dBus h.start, h.dBus h.start])]
    exact h.faults h.start

/-- Both runs dump the same words, or both fault. -/
theorem idDump (h : Simulation R Q s s') (hidh : s'.idh = s.idh) (n : Nat) :
    Q (idReadLoop respondDump n 0 [] s) (idReadLoop respondDump n 0 [] s') := by
  by_cases hb : ∃ k, 0 ≤ k ∧ k < 0 + n ∧ s.inputs.dBus k = false
  · rw [idReadLoop_faults _ _ _ _ _ hb, idReadLoop_faults _ _ _ _ _ (by simpa only [h.dBus h.start] using hb)]
    exact h.faults h.start
  · have hb : ∀ k, 0 ≤ k → k < 0 + n → s.inputs.dBus k = true := fun k h0 hn => by
      by_contra hk
      exact hb ⟨k, h0, hn, by simpa using hk⟩
    have hw (j : Nat) : s'.idhWord j = s.idhWord j := by rw [State.idhWord, hidh, State.idhWord]
    rw [idReadLoop_completes _ _ _ _ _ hb,
      idReadLoop_completes _ _ _ _ _ (by simpa only [h.dBus h.start] using hb)]
    simp only [hw]
    exact h.completes h.start rfl

theorem initFinish (h : Simulation R Q s s') (k : Nat) (chk : Bool) :
    Q (initFinish k chk s) (initFinish k chk s') :=
  h.memWrite h.start fun hw => h.completes (h.bound hw chk) rfl

/-- INIT after its checks (R150): allocation, then the identity check unless it is disabled. -/
theorem init (h : Simulation R Q s s') (nochk : Bool) :
    ∃ t t', exec (.init nochk) s = .next t ∧ exec (.init nochk) s' = .next t' ∧ Q t t' := by
  refine ⟨_, _, rfl, rfl, h.perform ?_⟩
  rw [h.alloc]
  split
  · exact h.raises (by decide)
  · split
    · exact h.initFinish 0 false
    · refine h.validate fun st => ?_
      split
      · exact h.raises ‹_›
      · exact h.initFinish 2 true

/-- The two block commands check the size first (R124). -/
theorem sizeChecked (h : Simulation R Q s s') {size : Int} {t t' : State} (hrule : Q t t') :
    Q (if sizeInvalid size then raise .invalidSize s else t)
      (if sizeInvalid size then raise .invalidSize s' else t') := by
  split
  · exact h.raises (by decide)
  · exact hrule

end Simulation

/-- Performed from `s` and from `s'`, a command ends in states that `Q` relates. The header beyond words 0 and 1 matters
to ID.DUMP only, DIN only to the word that BLK.WR writes. -/
theorem exec_simulated {R Q : State → State → Prop} {s s' : State} (h : Simulation R Q s s') (i : Instr)
    (hidh : ∀ len, i = .idDump len → s'.idh = s.idh)
    (hdin : ∀ size, i = .blkWr size → ∀ r,
      blockWord r s'.inputs.din.toList size.toNat = blockWord r s.inputs.din.toList size.toNat) :
    ∃ t t', exec i s = .next t ∧ exec i s' = .next t' ∧ Q t t' := by
  cases i with
  | init nochk => exact h.init nochk
  | regRd => exact ⟨_, _, rfl, rfl, h.perform (h.memRead h.start fun _ _ _ hw => h.completes hw rfl)⟩
  | chRd ch => exact ⟨_, _, rfl, rfl, h.perform (h.memRead h.start fun _ _ _ hw => h.completes hw rfl)⟩
  | regWr v => exact ⟨_, _, rfl, rfl, h.perform (h.memWrite h.start fun hw => h.completes hw rfl)⟩
  | exit => exact ⟨_, _, rfl, rfl, h.perform (h.memWrite h.start fun hw => h.completes (h.released hw) rfl)⟩
  | regSet m => exact ⟨_, _, rfl, rfl, h.perform (h.readModifyWrite h.start fun hw => h.completes hw rfl)⟩
  | regClr m => exact ⟨_, _, rfl, rfl, h.perform (h.readModifyWrite h.start fun hw => h.completes hw rfl)⟩
  | chWr ch value => exact ⟨_, _, rfl, rfl, h.perform (h.readModifyWrite h.start fun hw => h.completes hw rfl)⟩
  | blkRd size =>
    exact ⟨_, _, rfl, rfl, h.perform (h.sizeChecked (h.memRead h.start fun _ _ _ hw => h.completes hw rfl))⟩
  | blkWr size =>
    refine ⟨_, _, rfl, rfl, h.perform (h.sizeChecked ?_)⟩
    rw [funext (hdin size rfl)]
    exact h.readModifyWrite h.start fun hw => h.completes hw rfl
  | idDump len =>
    refine ⟨_, _, rfl, rfl, h.perform ?_⟩
    split
    · exact h.raises (by decide)
    · exact h.idDump (hidh len rfl) _

/-- `exec_simulated` for a command already performed from `s`. -/
theorem Simulation.exec_next {R Q : State → State → Prop} {s s' t : State} (h : Simulation R Q s s') {i : Instr}
    (hidh : ∀ len, i = .idDump len → s'.idh = s.idh)
    (hdin : ∀ size, i = .blkWr size → ∀ r,
      blockWord r s'.inputs.din.toList size.toNat = blockWord r s.inputs.din.toList size.toNat)
    (ht : exec i s = .next t) : ∃ t', exec i s' = .next t' ∧ Q t t' := by
  obtain ⟨t₀, t', ht₀, ht', hQ⟩ := exec_simulated h i hidh hdin
  obtain rfl : t₀ = t := Host.Outcome.next.inj (ht₀.symm.trans ht)
  exact ⟨t', ht', hQ⟩

/-! ### How a command ends -/

/-- The command that began in `s` has come to `u`: what no access, and neither INIT nor EXIT, changes before the command
ends. -/
structure InProgress (s u : State) : Prop where
  idh     : u.idh = s.idh
  fault   : u.fault = s.fault
  refused : u.refused = s.refused
  rsp     : u.rsp = s.rsp
  pc      : u.pc = s.pc
  params  : u.params = s.params
  program : u.program = s.program

namespace InProgress

variable {s u : State}

theorem refl (s : State) : InProgress s s := ⟨rfl, rfl, rfl, rfl, rfl, rfl, rfl⟩
theorem logged (h : InProgress s u) (e : BusEntry) : InProgress s (u.logged e) := { h with }
theorem regWritten (h : InProgress s u) (v : U16) : InProgress s (u.regWritten v) := { h with }
theorem bound (h : InProgress s u) (chk : Bool) : InProgress s (u.bound chk) := { h with }
theorem released (h : InProgress s u) : InProgress s u.released := { h with }

end InProgress

/-- The ends of a command begun in `s`: it completes (R28, R29), raises an error status (R13, R72), faults (R175), or is
refused (R176). -/
inductive Ending (s : State) : State → Prop where
  | completes {u : State} {r : Response} (hu : InProgress s u) (hr : r.status = .ok) : Ending s (u.latched r)
  | raises {e : Status} (he : e ≠ .ok) : Ending s (raise e s)
  | faults {u : State} (hu : InProgress s u) : Ending s u.busFault
  | refuses (r : RefuseReason) : Ending s (s.refuse r)

/-- Two runs that differ in RSP alone keep that difference until the command completes and overwrites RSP (R29). -/
theorem rsp_simulation (s : State) (r : Response) :
    Simulation (fun u u' => InProgress s u ∧ u' = { u with rsp := r })
      (fun t t' => Ending s t ∧ (t.pc = s.pc + 1 → t' = t)) s { s with rsp := r } where
  start := ⟨.refl s, rfl⟩
  lstate := rfl
  legal := rfl
  identity := rfl
  reg := by rintro u _ ⟨-, rfl⟩; rfl
  draws := by rintro u _ ⟨-, rfl⟩; rfl
  logged := by rintro u _ ⟨hu, rfl⟩ e; exact ⟨hu.logged e, rfl⟩
  regWritten := by rintro u _ ⟨hu, rfl⟩ v; exact ⟨hu.regWritten v, rfl⟩
  bound := by rintro u _ ⟨hu, rfl⟩ chk; exact ⟨hu.bound chk, rfl⟩
  released := by rintro u _ ⟨hu, rfl⟩; exact ⟨hu.released, rfl⟩
  completes := by rintro u _ ⟨hu, rfl⟩ _ hr; exact ⟨.completes hu hr, fun _ => rfl⟩
  raises he := ⟨.raises he, fun _ => rfl⟩
  faults := by
    rintro u _ ⟨hu, rfl⟩
    refine ⟨.faults hu, fun hpc => ?_⟩
    have := hu.pc.symm.trans hpc
    omega
  refuses r' := ⟨.refuses r', fun hpc => absurd hpc (Nat.ne_of_lt (Nat.lt_succ_self s.pc))⟩

/-- A performed command, and the same command with another RSP before it. -/
theorem exec_with_rsp {i : Instr} {s t : State} (h : exec i s = .next t) (r : Response) :
    ∃ t', exec i { s with rsp := r } = .next t' ∧ Ending s t ∧ (t.pc = s.pc + 1 → t' = t) :=
  (rsp_simulation s r).exec_next (fun _ _ => rfl) (fun _ _ _ => rfl) h

/-- Everything a performed command can answer. -/
theorem exec_ending {i : Instr} {s t : State} (h : exec i s = .next t) : Ending s t :=
  let ⟨_, _, hend, _⟩ := exec_with_rsp h s.rsp
  hend

/-- A command that completes answers the same whatever RSP held before (R29). -/
theorem exec_overwrites_rsp {i : Instr} {s t : State} (h : exec i s = .next t) (hpc : t.pc = s.pc + 1)
    (r : Response) : exec i { s with rsp := r } = .next t := by
  obtain ⟨t', ht', -, heq⟩ := exec_with_rsp h r
  rw [ht', heq hpc]

/-- A step of a running block on a word that decodes performs its command (R67). -/
theorem step_eq_exec {s : State} {c : Command} {i : Instr} (hs : s.running) (hc : s.fetch = some c)
    (hi : decode c.cmd = .ok i) : step s = exec i s := by
  obtain ⟨hf, hr⟩ := hs
  simp only [step, hf, hr, hc, performCommand, hi]

/-- Settles O16: a step refuses the word or performs a command, and `exec_ending` lists the ends of a performed one. -/
theorem everyStepCompletesFaultsOrRefuses : Obligations.EveryStepCompletesFaultsOrRefuses := by
  intro s t h
  obtain ⟨hf, hr, c, hc, ⟨e, -, rfl⟩ | ⟨i, hi, hexec⟩⟩ := step_cases h
  · exact .inr (.inr (.inr ⟨_, rfl⟩))
  · have hover := exec_overwrites_rsp hexec
    cases exec_ending hexec with
    | @completes u r hu hok =>
      have hpc : u.pc + 1 = s.pc + 1 := congrArg (· + 1) hu.pc
      exact .inl ⟨hu.fault.trans hf, hu.refused.trans hr, hpc, hok, fun r' =>
        (step_eq_exec (s := { s with rsp := r' }) ⟨hf, hr⟩ hc hi).trans (hover hpc r')⟩
    | raises he => exact .inr (.inl ⟨hf, hr, _, he, rfl⟩)
    | faults hu => exact .inr (.inr (.inl ⟨rfl, hu.refused.trans hr, hu.pc, hu.rsp⟩))
    | refuses r => exact .inr (.inr (.inr ⟨r, rfl⟩))

/-! ### The register offset -/

/-- Two runs that differ in the register offset alone, legal in both, keep that difference: a command asks of the
offset only whether it is legal (R46), and of the other parameters through Validate (R100). -/
theorem regOffset_simulation {s : State} {offset : Config.RegOffset}
    (hs : regOffsetLegal s.params.regOffset = true) (ho : regOffsetLegal offset = true) :
    Simulation (fun u u' => u' = { u with params := { s.params with regOffset := offset } })
      (fun t t' => t' = { t with params := { s.params with regOffset := offset } })
      s { s with params := { s.params with regOffset := offset } } where
  start := rfl
  lstate := rfl
  legal := ho.trans hs.symm
  identity := rfl
  reg := by rintro u _ rfl; rfl
  draws := by rintro u _ rfl; rfl
  logged := by rintro u _ rfl e; rfl
  regWritten := by rintro u _ rfl v; rfl
  bound := by rintro u _ rfl chk; rfl
  released := by rintro u _ rfl; rfl
  completes := by rintro u _ rfl r -; rfl
  raises _ := rfl
  faults := by rintro u _ rfl; rfl
  refuses _ := rfl

/-- Settles O45: the two runs are simulated, since both offsets are legal. -/
theorem legalRegisterOffsetsAreAlike : Obligations.LegalRegisterOffsetsAreAlike := by
  intro i s t offset hs heven hmax h
  have ho : regOffsetLegal offset = true := (regOffsetLegal_iff offset).2 ⟨heven, hmax⟩
  obtain ⟨t', ht', rfl⟩ := (regOffset_simulation hs ho).exec_next (fun _ _ => rfl) (fun _ _ _ => rfl) h
  exact ht'

end Sys2Proof.Machine
end

section
/-! PROOFS. What one performed command can leave behind, said once with its register transactions (`exec_performed`), and
the statements of 10_state.md that follow: the invariant of the block, and who may change which piece of state. -/

namespace Sys2Proof.Machine

/-! ### Well-formed responses (R29, R72) -/

namespace Response.wf

/-- A response that carries nothing but its status, as `raise` and `respondOk` latch it. -/
theorem status_only (e : Status) : Response.wf ⟨e, 0x0000#16, 0, [], []⟩ :=
  ⟨Nat.zero_le _, Nat.zero_le _, nofun, .inl rfl, fun _ => ⟨rfl, rfl, rfl, rfl⟩⟩

theorem data_only (v : U16) : Response.wf ⟨.ok, v, 0, [], []⟩ :=
  ⟨Nat.zero_le _, Nat.zero_le _, nofun, .inl rfl, fun h => absurd rfl h⟩

theorem block {n : Nat} {out : List U8} (hn : n ≤ 16) (hlen : out.length ≤ 16)
    (hbytes : ∀ b ∈ out, b = 0x00#8 ∨ b = 0x01#8) : Response.wf ⟨.ok, 0x0000#16, n, out, []⟩ :=
  ⟨hn, hlen, hbytes, .inl rfl, fun h => absurd rfl h⟩

theorem dump {out : List U16} (hlen : out.length = 64) : Response.wf ⟨.ok, 0x0000#16, 0, [], out⟩ :=
  ⟨Nat.zero_le _, Nat.zero_le _, nofun, .inr hlen, fun h => absurd rfl h⟩

end Response.wf

/-! ### The state after a command's register transactions -/

/-- `u` is `s` after the completed register transactions of one command: none, one read, one write, or a read and then
a write (R74). -/
inductive Accessed (s : State) : State → Prop where
  | nothing : Accessed s s
  | read : Accessed s (s.logged (.rd s.reg))
  | write (v : U16) : Accessed s ((s.regWritten v).logged (.wr v))
  | readWrite (v : U16) : Accessed s (((s.logged (.rd s.reg)).regWritten v).logged (.wr v))

namespace Accessed

variable {s u : State}

theorem inProgress (h : Accessed s u) : InProgress s u := by
  cases h with
  | nothing => exact .refl s
  | read => exact (InProgress.refl s).logged _
  | write v => exact ((InProgress.refl s).regWritten v).logged _
  | readWrite v => exact (((InProgress.refl s).logged _).regWritten v).logged _

theorem lifecycle (h : Accessed s u) : u.lstate = s.lstate ∧ u.idchk = s.idchk := by
  cases h <;> exact ⟨rfl, rfl⟩

theorem busLog (h : Accessed s u) : ∃ added : List BusEntry, added.length ≤ 2 ∧ u.busLog = s.busLog ++ added := by
  cases h with
  | nothing => exact ⟨[], by simp⟩
  | read => exact ⟨[.rd s.reg], by simp⟩
  | write v => exact ⟨[.wr v], by simp⟩
  | readWrite v => exact ⟨[.rd s.reg, .wr v], by simp⟩

/-- Only a write changes REG, and it is the last transaction (R43). -/
theorem last_write (h : Accessed s u) (hreg : u.reg ≠ s.reg) : u.busLog.getLast? = some (.wr u.reg) := by
  cases h with
  | nothing => exact absurd rfl hreg
  | read => exact absurd rfl hreg
  | write v => exact List.getLast?_concat
  | readWrite v => exact List.getLast?_concat

end Accessed

/-! ### Everything a performed command can leave behind -/

/-- What command `i`, performed in `s`, can leave behind: a refusal (R176), an error status with no other effect (R13), a
fault at a read or at a write with the transactions before it (R175), a well-formed response to a command that leaves
the lifecycle alone, or the success of INIT (R150) or of EXIT (R154). -/
inductive Performed (i : Instr) (s : State) : State → Prop where
  | refuses (r : RefuseReason) : Performed i s (s.refuse r)
  | raises {e : Status} (he : e ≠ .ok) : Performed i s (raise e s)
  | readFaults : Performed i s s.busFault
  | writeFaults : Performed i s s.busFaultOnWrite
  | writeFaultsAfterRead : Performed i s (s.logged (.rd s.reg)).busFaultOnWrite
  | answers {u : State} {r : Response} (hu : Accessed s u) (hr : r.wf) : Performed i s (u.latched r)
  | binds {chk : Bool} (hi : i = .init (!chk)) (hid : chk = true → s.identityPasses) :
    Performed i s (respondOk (((s.regWritten 0x0000#16).logged (.wr 0x0000#16)).bound chk))
  | releases (hi : i = .exit) :
    Performed i s (respondOk ((s.regWritten 0x0000#16).logged (.wr 0x0000#16)).released)

theorem identityPasses_of_identityStatus_ok {s : State}
    (h : identityStatus s.params (s.idhWord 0) (s.idhWord 1) = .ok) : s.identityPasses := by
  obtain ⟨-, hst⟩ | ⟨-, -, hst⟩ | ⟨hmagic, hmodel, -⟩ :=
    identityStatus_cases s.params (s.idhWord 0) (s.idhWord 1)
  · exact absurd (hst.symm.trans h) (by decide)
  · exact absurd (hst.symm.trans h) (by decide)
  · exact ⟨hmagic, hmodel⟩

namespace Performed

variable {i : Instr} {s : State}

theorem perform {need : LState} {rule : State → State} (hrule : Performed i s (rule s)) :
    Performed i s (perform need s rule) := by
  obtain ⟨-, hp⟩ | ⟨-, -, hp⟩ | ⟨-, -, hp⟩ := perform_cases need s rule <;> rw [hp]
  · exact .refuses _
  · exact .refuses _
  · exact hrule

theorem memRead {k : Nat} {after : U16 → State → State}
    (hafter : Performed i s (after s.reg (s.logged (.rd s.reg)))) : Performed i s (memRead k s after) := by
  obtain ⟨-, hm⟩ | ⟨-, hm⟩ := memRead_cases k s after <;> rw [hm]
  · exact hafter
  · exact .readFaults

theorem memWrite {k : Nat} {v : U16} {after : State → State}
    (hafter : Performed i s (after ((s.regWritten v).logged (.wr v)))) :
    Performed i s (memWrite k v s after) := by
  obtain ⟨-, hm⟩ | ⟨-, hm⟩ := memWrite_cases k v s after <;> rw [hm]
  · exact hafter
  · exact .writeFaults

/-- A read/modify/write (R53) that answers `r` when both its accesses complete. -/
theorem readModifyWrite (f : U16 → U16) {r : Response} (hr : r.wf) :
    Performed i s (readModifyWrite f s fun s => s.latched r) := by
  obtain ⟨-, -, hm⟩ | ⟨-, hm⟩ | ⟨-, -, hm⟩ := readModifyWrite_cases f s (fun s => s.latched r) <;> rw [hm]
  · exact .answers (.readWrite _) hr
  · exact .readFaults
  · exact .writeFaultsAfterRead

theorem idRead {k j : Nat} {after : U16 → State → State} (hafter : Performed i s (after (s.idhWord j) s)) :
    Performed i s (idRead k j s after) := by
  obtain ⟨-, hm⟩ | ⟨-, hm⟩ := idRead_cases k j s after <;> rw [hm]
  · exact hafter
  · exact .readFaults

theorem validate {after : Status → State → State}
    (hafter : Performed i s (after (identityStatus s.params (s.idhWord 0) (s.idhWord 1)) s)) :
    Performed i s (validate s after) :=
  idRead (idRead hafter)

/-- The loop of ID.DUMP gathers one word for each of its reads. -/
theorem idReadLoop {after : List U16 → State → State} (n j : Nat) (out : List U16)
    (hafter : ∀ words : List U16, words.length = out.length + n → Performed i s (after words s)) :
    Performed i s (idReadLoop after n j out s) := by
  induction n generalizing j out with
  | zero => exact hafter out rfl
  | succ n ih => exact idRead (ih _ _ fun words hlen => hafter words (by simp at hlen; omega))

/-- The two block commands check the size first (R124), so that past the check it is in 0..16. -/
theorem sizeChecked {size : Int} {t : State} (hrule : size.toNat ≤ 16 → Performed i s t) :
    Performed i s (if sizeInvalid size then raise .invalidSize s else t) := by
  split
  next => exact .raises (by decide)
  next hvalid =>
    rw [sizeInvalid_iff] at hvalid
    exact hrule (by omega)

theorem initFinish (k : Nat) {chk : Bool} (hi : i = .init (!chk)) (hid : chk = true → s.identityPasses) :
    Performed i s (initFinish k chk s) :=
  memWrite (.binds hi hid)

/-- INIT (R150): allocation, then the identity check unless it is disabled. -/
theorem init (nochk : Bool) : ∃ t, exec (.init nochk) s = .next t ∧ Performed (.init nochk) s t := by
  refine ⟨_, rfl, perform ?_⟩
  split
  · exact .raises (by decide)
  · split
    next hdisabled =>
      subst hdisabled
      exact initFinish 0 rfl nofun
    next henabled =>
      obtain rfl := Bool.eq_false_of_not_eq_true henabled
      refine validate ?_
      split
      next hfails => exact .raises hfails
      next hpasses => exact initFinish 2 rfl fun _ => identityPasses_of_identityStatus_ok (not_not.1 hpasses)

end Performed

/-- Every command answers a next state, one of those that `Performed` lists. -/
theorem exec_answers_performed (i : Instr) (s : State) : ∃ t, exec i s = .next t ∧ Performed i s t := by
  cases i with
  | init nochk => exact Performed.init nochk
  | exit => exact ⟨_, rfl, .perform (.memWrite (.releases rfl))⟩
  | regRd => exact ⟨_, rfl, .perform (.memRead (.answers .read (.data_only _)))⟩
  | chRd ch => exact ⟨_, rfl, .perform (.memRead (.answers .read (.data_only _)))⟩
  | regWr v => exact ⟨_, rfl, .perform (.memWrite (.answers (.write v) (.status_only _)))⟩
  | regSet m => exact ⟨_, rfl, .perform (.readModifyWrite _ (.status_only _))⟩
  | regClr m => exact ⟨_, rfl, .perform (.readModifyWrite _ (.status_only _))⟩
  | chWr ch value => exact ⟨_, rfl, .perform (.readModifyWrite _ (.status_only _))⟩
  | blkRd size =>
    exact ⟨_, rfl, .perform (.sizeChecked fun hn =>
      .memRead (.answers .read (.block hn (by simpa using hn) (unpack_bytes _ _))))⟩
  | blkWr size =>
    exact ⟨_, rfl, .perform (.sizeChecked fun hn => .readModifyWrite _ (.block hn (Nat.zero_le _) nofun))⟩
  | idDump len =>
    refine ⟨_, rfl, .perform ?_⟩
    split
    · exact .raises (by decide)
    · exact .idReadLoop _ _ _ fun words hlen => .answers .nothing (.dump hlen)

/-- `exec_answers_performed` for a command already performed. -/
theorem exec_performed {i : Instr} {s t : State} (h : exec i s = .next t) : Performed i s t := by
  obtain ⟨t₀, ht₀, hperf⟩ := exec_answers_performed i s
  obtain rfl : t₀ = t := Host.Outcome.next.inj (ht₀.symm.trans h)
  exact hperf

/-! ### The invariant of the block -/

theorem pc_lt_of_fetch {s : State} {c : Command} (h : s.fetch = some c) : s.pc < s.program.length :=
  (List.getElem?_eq_some_iff.1 h).1

/-- A performed command keeps the invariant: where the lifecycle stays, its two clauses do; INIT with the check enabled
enters READY only after the check has passed, and EXIT sets IDCHK back to 1. -/
theorem Performed.inv {i : Instr} {s t : State} (h : Performed i s t) (hs : s.inv) (hrun : s.running)
    (hpc : s.pc < s.program.length) : t.inv := by
  obtain ⟨hf, hr⟩ := hrun
  cases h with
  | refuses r => exact { hs with oneStop := .inl hf }
  | raises he => exact { hs with response := .status_only _, index := hpc }
  | readFaults => exact { hs with oneStop := .inr hr }
  | writeFaults => exact { hs with oneStop := .inr hr }
  | writeFaultsAfterRead => exact { hs with oneStop := .inr hr }
  | answers hu hwf => cases hu <;> exact { hs with response := hwf, index := hpc }
  | binds hi hid => exact ⟨nofun, fun _ => hid, .status_only _, .inl hf, hpc⟩
  | releases hi => exact ⟨fun _ => rfl, nofun, .status_only _, .inl hf, hpc⟩

/-- Settles O3: a step refuses a word, or performs a command, and `Performed.inv` goes through what that can leave. -/
theorem everyStepKeepsTheInvariant : Obligations.EveryStepKeepsTheInvariant := by
  intro s t hs h
  obtain ⟨hf, hr, c, hc, ⟨e, -, rfl⟩ | ⟨i, -, hexec⟩⟩ := step_cases h
  · exact { hs with oneStop := .inl hf }
  · exact (exec_performed hexec).inv hs ⟨hf, hr⟩ (pc_lt_of_fetch hc)

theorem powerUp_inv (p : Config.Params) (idh : Vector U16 64) (d : U16) (prog : List Command) :
    (State.powerUp p idh d prog).inv :=
  ⟨fun _ => rfl, nofun, .status_only _, .inl rfl, Nat.zero_le _⟩

/-- Settles O2: the reset state is a power-up state. -/
theorem powerUpMeetsTheInvariant : Obligations.PowerUpMeetsTheInvariant :=
  ⟨powerUp_inv _ _ _ _, powerUp_inv⟩

/-! ### The environment and BUSLOG -/

theorem Ending.keeps_environment {s t : State} (h : Ending s t) :
    t.idh = s.idh ∧ t.params = s.params ∧ t.program = s.program := by
  cases h with
  | completes hu _ => exact ⟨hu.idh, hu.params, hu.program⟩
  | raises he => exact ⟨rfl, rfl, rfl⟩
  | faults hu => exact ⟨hu.idh, hu.params, hu.program⟩
  | refuses r => exact ⟨rfl, rfl, rfl⟩

theorem Performed.busLog {i : Instr} {s t : State} (h : Performed i s t) :
    ∃ added : List BusEntry, added.length ≤ 2 ∧ t.busLog = s.busLog ++ added := by
  cases h with
  | refuses r => exact Accessed.nothing.busLog
  | raises he => exact Accessed.nothing.busLog
  | readFaults => exact Accessed.nothing.busLog
  | writeFaults => exact Accessed.nothing.busLog
  | writeFaultsAfterRead => exact Accessed.read.busLog
  | answers hu _ => exact hu.busLog
  | binds hi hid => exact (Accessed.write _).busLog
  | releases hi => exact (Accessed.write _).busLog

/-- Settles O26: a refused word changes only REFUSED; a performed command ends in one of the states of `Ending`, with
the transactions of `Performed`. -/
theorem stepKeepsHeaderParametersAndLog : Obligations.StepKeepsHeaderParametersAndLog := by
  intro s t h
  obtain ⟨-, -, c, -, ⟨e, -, rfl⟩ | ⟨i, -, hexec⟩⟩ := step_cases h
  · exact ⟨rfl, rfl, rfl, Accessed.nothing.busLog⟩
  · obtain ⟨hidh, hparams, hprogram⟩ := (exec_ending hexec).keeps_environment
    exact ⟨hidh, hparams, hprogram, (exec_performed hexec).busLog⟩

/-! ### The lifecycle and REG -/

/-- INIT may enter READY and EXIT may enter UNINIT; otherwise LSTATE and IDCHK stay as they are. -/
theorem Performed.lifecycle {i : Instr} {s t : State} (h : Performed i s t) :
    (t.lstate = .ready ∧ ∃ b, i = .init b) ∨ (t.lstate = .uninit ∧ i = .exit) ∨
      (t.lstate = s.lstate ∧ t.idchk = s.idchk) := by
  cases h with
  | refuses r => exact .inr (.inr ⟨rfl, rfl⟩)
  | raises he => exact .inr (.inr ⟨rfl, rfl⟩)
  | readFaults => exact .inr (.inr ⟨rfl, rfl⟩)
  | writeFaults => exact .inr (.inr ⟨rfl, rfl⟩)
  | writeFaultsAfterRead => exact .inr (.inr ⟨rfl, rfl⟩)
  | answers hu _ => exact .inr (.inr hu.lifecycle)
  | binds hi _ => exact .inl ⟨rfl, _, hi⟩
  | releases hi => exact .inr (.inl ⟨rfl, hi⟩)

/-- Settles O41, from the three ways of `Performed.lifecycle`. -/
theorem onlyInitAndExitChangeTheLifecycle : Obligations.OnlyInitAndExitChangeTheLifecycle := by
  intro i s t h
  obtain ⟨hl, b, hi⟩ | ⟨hl, hi⟩ | ⟨hl, hc⟩ := (exec_performed h).lifecycle
  · exact ⟨fun _ => .inr ⟨b, hi⟩, fun hu => (nomatch hl.symm.trans hu), fun hinit => absurd hi (hinit b)⟩
  · exact ⟨fun hr => (nomatch hl.symm.trans hr), fun _ => .inr hi, fun _ hexit => absurd hi hexit⟩
  · exact ⟨fun hr => .inl (hl.symm.trans hr), fun hu => .inl (hl.symm.trans hu), fun _ _ => hc⟩

/-- Settles O44: without a fault, REG is what the command's transactions left in it. -/
theorem regChangesOnlyByALoggedWrite : Obligations.RegChangesOnlyByALoggedWrite := by
  intro i s t h hf hreg
  cases exec_performed h with
  | refuses r => exact absurd rfl hreg
  | raises he => exact absurd rfl hreg
  | readFaults => exact absurd rfl hreg
  | writeFaults => exact nomatch hf
  | writeFaultsAfterRead => exact nomatch hf
  | answers hu _ => exact hu.last_write hreg
  | binds hi hid => exact (Accessed.write _).last_write hreg
  | releases hi => exact (Accessed.write _).last_write hreg

/-! ### The header -/

/-- Two runs that differ in the header beyond words 0 and 1 keep that difference: Validate reads those two words only
(R100). -/
theorem header_simulation {s : State} {idh' : Vector U16 64} (h0 : idh'[0] = s.idh[0]) (h1 : idh'[1] = s.idh[1]) :
    Simulation (fun u u' => u' = { u with idh := idh' }) (fun t t' => t' = { t with idh := idh' })
      s { s with idh := idh' } where
  start := rfl
  lstate := rfl
  legal := rfl
  identity := by
    rw [idhWord_eq _ 0 (by decide), idhWord_eq _ 1 (by decide), idhWord_eq s 0 (by decide),
      idhWord_eq s 1 (by decide), h0, h1]
  reg := by rintro u _ rfl; rfl
  draws := by rintro u _ rfl; rfl
  logged := by rintro u _ rfl e; rfl
  regWritten := by rintro u _ rfl v; rfl
  bound := by rintro u _ rfl chk; rfl
  released := by rintro u _ rfl; rfl
  completes := by rintro u _ rfl r -; rfl
  raises _ := rfl
  faults := by rintro u _ rfl; rfl
  refuses _ := rfl

/-- Settles O27: the two runs are simulated, since only ID.DUMP reads the header outside Validate. -/
theorem onlyIdDumpSeesTheOtherHeaderWords : Obligations.OnlyIdDumpSeesTheOtherHeaderWords := by
  intro i s t idh' hi h0 h1 h
  obtain ⟨t', ht', rfl⟩ := (header_simulation h0 h1).exec_next (fun len hlen => absurd hlen (hi len))
    (fun _ _ _ => rfl) h
  exact ht'

/-! ### A stopped block -/

/-- Settles O13: `step` looks at FAULT first, then at REFUSED (R67). -/
theorem noStepAfterAFaultOrARefusal : Obligations.NoStepAfterAFaultOrARefusal :=
  ⟨fun s hf => by simp only [step, hf], fun s r hf hr => by simp only [step, hf, hr]⟩

end Sys2Proof.Machine
end

section
/-! PROOFS. The three statements of 20_memory.md: read-back at power-up and across every step, from what BUSLOG means
after more transactions are appended; and the refusal of an illegal P_REG_OFFSET, which every command's checks share. -/

namespace Sys2Proof.Machine

/-! ### BUSLOG with transactions appended -/

theorem replay_append (r : U16) (l l' : List BusEntry) : replay r (l ++ l') = replay (replay r l) l' := by
  induction l generalizing r with
  | nil => rfl
  | cons e l ih =>
    cases e with
    | rd v => exact ih r
    | wr v => exact ih v

/-- The appended transactions are to agree with the value that the earlier ones left. -/
theorem coherent_append (r : U16) (l l' : List BusEntry) :
    coherent r (l ++ l') ↔ coherent r l ∧ coherent (replay r l) l' := by
  induction l generalizing r with
  | nil => simp [coherent, replay]
  | cons e l ih =>
    cases e with
    | rd v => simp only [List.cons_append, coherent, replay, ih, and_assoc]
    | wr v => exact ih v

/-! ### Read-back (R44) across the accesses of a command -/

namespace State.readBack

variable {r0 : U16} {s u t : State}

/-- Read-back is a matter of REG, BUSLOG and FAULT. -/
theorem of_eq (h : u.readBack r0) (hreg : t.reg = u.reg) (hlog : t.busLog = u.busLog) (hfault : t.fault = u.fault) :
    t.readBack r0 := by
  rwa [State.readBack, hreg, hlog, hfault]

/-- In a faulted state nothing is said of REG (R47), so a coherent log is enough. -/
theorem of_fault (h : u.readBack r0) (hlog : t.busLog = u.busLog) (hfault : t.fault = .busFault) : t.readBack r0 :=
  ⟨hlog ▸ h.left, fun hnone => nomatch hfault.symm.trans hnone⟩

/-- A completed read returns what the log left in REG (R42). -/
theorem read (h : s.readBack r0) (hf : s.fault = .none) : (s.logged (.rd s.reg)).readBack r0 := by
  obtain ⟨hcoh, hreg⟩ := h
  exact ⟨(coherent_append r0 s.busLog _).2 ⟨hcoh, hreg hf, trivial⟩,
    fun _ => (hreg hf).trans (replay_append r0 s.busLog [.rd s.reg]).symm⟩

/-- A completed write leaves its value in REG, whatever stood there (R43). -/
theorem write (h : s.readBack r0) (v : U16) : ((s.regWritten v).logged (.wr v)).readBack r0 := by
  obtain ⟨hcoh, -⟩ := h
  exact ⟨(coherent_append r0 s.busLog _).2 ⟨hcoh, trivial⟩,
    fun _ => (replay_append r0 s.busLog [.wr v]).symm⟩

theorem accessed (h : s.readBack r0) (hf : s.fault = .none) (hu : Accessed s u) : u.readBack r0 := by
  cases hu with
  | nothing => exact h
  | read => exact h.read hf
  | write v => exact h.write v
  | readWrite v => exact (h.read hf).write v

end State.readBack

/-- A performed command that has not faulted before keeps read-back, however it ends. -/
theorem Performed.readBack {i : Instr} {s t : State} {r0 : U16} (h : Performed i s t) (hs : s.readBack r0)
    (hf : s.fault = .none) : t.readBack r0 := by
  cases h with
  | refuses r => exact hs.of_eq rfl rfl rfl
  | raises he => exact hs.of_eq rfl rfl rfl
  | readFaults => exact hs.of_fault rfl rfl
  | writeFaults => exact hs.of_fault rfl rfl
  | writeFaultsAfterRead => exact (hs.read hf).of_fault rfl rfl
  | answers hu _ => exact (hs.accessed hf hu).of_eq rfl rfl rfl
  | binds hi hid => exact (hs.write 0x0000#16).of_eq rfl rfl rfl
  | releases hi => exact (hs.write 0x0000#16).of_eq rfl rfl rfl

/-- Settles O5: a refused word leaves REG, BUSLOG and FAULT alone; a performed command keeps read-back by
`Performed.readBack`. -/
theorem everyStepKeepsReadBack : Obligations.EveryStepKeepsReadBack := by
  intro r0 s t hs h
  obtain ⟨hf, -, c, -, ⟨e, -, rfl⟩ | ⟨i, -, hexec⟩⟩ := step_cases h
  · exact hs.of_eq rfl rfl rfl
  · exact (exec_performed hexec).readBack hs hf

/-- Settles O4: no transaction has been made, and REG holds the draw. -/
theorem powerUpMeetsReadBack : Obligations.PowerUpMeetsReadBack :=
  fun _ _ _ _ => ⟨trivial, fun _ => rfl⟩

/-! ### An illegal register offset -/

/-- Every command is a rule of its own behind the same checks (R66, R67). -/
theorem exec_eq_perform (i : Instr) (s : State) : ∃ rule, exec i s = .next (perform (needs i) s rule) := by
  cases i <;> exact ⟨_, rfl⟩

/-- `regOffsetLegal_iff` from the other side. -/
theorem regOffsetLegal_eq_false {o : Config.RegOffset} (h : regOffsetByte o % 2 = 1 ∨ 254 < regOffsetByte o) :
    regOffsetLegal o = false := by
  refine Bool.eq_false_of_not_eq_true fun hlegal => ?_
  obtain ⟨heven, hmax⟩ := (regOffsetLegal_iff o).1 hlegal
  omega

/-- Settles O15: the checks refuse before the command's own rule is reached. -/
theorem illegalRegisterOffsetIsRefused : Obligations.IllegalRegisterOffsetIsRefused := by
  intro s i hl hoffset
  obtain ⟨rule, hrule⟩ := exec_eq_perform i s
  rw [hrule, perform_badParameter hl (regOffsetLegal_eq_false hoffset)]
  rfl

end Sys2Proof.Machine
end

section
/-! PROOFS. The encoding statements of 30_encoding.md: encoder and decoder are inverse to each other, and a word that
spells a command is selected by exactly one row of the opcode map. -/

namespace Sys2Proof

/-! ### An operand read back from the word it was put into (R62) -/

theorem extract_low_half_or {c : U32} (hc : c.extractLsb' 0 16 = 0#16) (v : U16) :
    (c ||| v.setWidth 32).extractLsb' 0 16 = v := by
  rw [BitVec.extractLsb'_or, hc, BitVec.zero_or, BitVec.extractLsb'_setWidth_of_le (by decide),
    BitVec.extractLsb'_eq_self]

theorem lenField_or {c : U32} (hc : c.extractLsb' 0 16 = 0#16) {len : Nat} (h : lenOk len = true) :
    lenField (c ||| (BitVec.ofNat 16 len).setWidth 32) = len := by
  have hlen : len ≤ 65535 := of_decide_eq_true h
  rw [lenField, extract_low_half_or hc, BitVec.toNat_ofNat, Nat.mod_eq_of_lt (by omega)]

theorem sizeField_or {c : U32} (hc : c.extractLsb' 0 16 = 0#16) {size : Int} (h : sizeOk size = true) :
    sizeField (c ||| (BitVec.ofInt 16 size).setWidth 32) = size := by
  obtain ⟨hlo, hhi⟩ := of_decide_eq_true h
  rw [sizeField, extract_low_half_or hc]
  exact BitVec.toInt_ofInt_eq_self (by decide) hlo (by omega)

theorem chRd_operands (ch : Fin 16) : Op.chRd.operands (encode (.chRd ch)) = .chRd ch := by
  revert ch; decide

theorem chWr_operands (ch : Fin 16) (value : Bool) : Op.chWr.operands (encode (.chWr ch value)) = .chWr ch value := by
  revert ch value; decide

/-- The fields of a command's word give the command's operands back. -/
theorem operands_encode {i : Instr} (h : i.wf = true) : i.op.operands (encode i) = i := by
  cases i with
  | regRd => rfl
  | exit => rfl
  | regWr v => exact congrArg Instr.regWr (extract_low_half_or (by decide) v)
  | regSet m => exact congrArg Instr.regSet (extract_low_half_or (by decide) m)
  | regClr m => exact congrArg Instr.regClr (extract_low_half_or (by decide) m)
  | idDump len => exact congrArg Instr.idDump (lenField_or (by decide) h)
  | chRd ch => exact chRd_operands ch
  | chWr ch value => exact chWr_operands ch value
  | blkRd size => exact congrArg Instr.blkRd (sizeField_or (by decide) h)
  | blkWr size => exact congrArg Instr.blkWr (sizeField_or (by decide) h)
  | init nochk => cases nochk <;> rfl

/-! ### A field as the bits of the word it is read from (R61) -/

theorem low_bits_setWidth (w : U32) (n : Nat) :
    (w.extractLsb' 0 n).setWidth 32 = w &&& BitVec.ofNat 32 (2 ^ n - 1) := by
  refine BitVec.eq_of_getLsbD_eq fun j hj => ?_
  rw [BitVec.getLsbD_setWidth, BitVec.getLsbD_extractLsb', BitVec.getLsbD_and, BitVec.getLsbD_ofNat,
    Nat.testBit_two_pow_sub_one]
  simp [hj, Bool.and_comm]

theorem v16Field_setWidth (w : U32) : (v16Field w).setWidth 32 = w &&& 0x0000FFFF#32 := low_bits_setWidth w 16

theorem ofNat_lenField (w : U32) : (BitVec.ofNat 16 (lenField w)).setWidth 32 = w &&& 0x0000FFFF#32 := by
  rw [lenField, BitVec.ofNat_toNat, BitVec.setWidth_eq]
  exact low_bits_setWidth w 16

theorem ofInt_sizeField (w : U32) : (BitVec.ofInt 16 (sizeField w)).setWidth 32 = w &&& 0x0000FFFF#32 := by
  rw [sizeField, BitVec.ofInt_toInt]
  exact low_bits_setWidth w 16

theorem ofNat_chField (w : U32) : BitVec.ofNat 32 (chField w).val = w &&& 0x0000000F#32 :=
  (BitVec.ofNat_toNat 32 _).trans (low_bits_setWidth w 4)

theorem bitWord_valField (w : U32) : bitWord (valField w) <<< 4 = w &&& 0x00000010#32 := by
  have hbit : w &&& 0x00000010#32 = if valField w = true then 0x00000010#32 else 0#32 := BitVec.and_twoPow w 4
  rw [hbit]
  cases valField w <;> rfl

theorem bitWord_nochkField (w : U32) : bitWord (nochkField w) = w &&& 0x00000001#32 :=
  (BitVec.and_twoPow w 0).symm

theorem channelWrite_fields (w : U32) (c : U32) :
    c ||| (bitWord (valField w) <<< 4) ||| BitVec.ofNat 32 (chField w).val = c ||| (w &&& 0x0000001F#32) := by
  rw [bitWord_valField, ofNat_chField, BitVec.or_assoc, ← BitVec.and_or_distrib_left]
  rfl

/-- The word of a row's command on the operands of `w`: the row's match, and the bits of `w` that the row's mask leaves
to the operands. -/
theorem encode_operands (w : U32) : ∀ r ∈ opcodeTable, encode (r.op.operands w) = r.word ||| (w &&& ~~~r.mask) := by
  intro r hr
  simp only [opcodeTable, List.mem_cons, List.not_mem_nil, or_false] at hr
  obtain rfl | rfl | rfl | rfl | rfl | rfl | rfl | rfl | rfl | rfl | rfl := hr
  · simp [Op.operands, encode]
  · exact congrArg (0x10000000#32 ||| ·) (v16Field_setWidth w)
  · exact congrArg (0x20000000#32 ||| ·) (v16Field_setWidth w)
  · exact congrArg (0x30000000#32 ||| ·) (v16Field_setWidth w)
  · exact congrArg (0x40000000#32 ||| ·) (ofNat_lenField w)
  · exact congrArg (0x50000000#32 ||| ·) (ofNat_chField w)
  · exact channelWrite_fields w 0x60000000#32
  · exact congrArg (0x70000000#32 ||| ·) (ofInt_sizeField w)
  · exact congrArg (0x80000000#32 ||| ·) (ofInt_sizeField w)
  · exact congrArg (0x90000000#32 ||| ·) (bitWord_nochkField w)
  · simp [Op.operands, encode]

theorem wf_operands (w : U32) (o : Op) : (o.operands w).wf = true := by
  have hlen : lenOk (lenField w) = true := decide_eq_true (Nat.le_of_lt_succ (w.extractLsb' 0 16).isLt)
  have hsize : sizeOk (sizeField w) = true :=
    decide_eq_true ⟨BitVec.le_toInt (w.extractLsb' 0 16), Int.le_of_lt_add_one BitVec.toInt_lt⟩
  cases o with
  | idDump => exact hlen
  | blkRd => exact hsize
  | blkWr => exact hsize
  | regRd | regWr | regSet | regClr | chRd | chWr | init | exit => rfl

/-! ### Which row selects a word (R61, R63) -/

theorem selects_iff_mask {r : Row} {w : U32} : r.selects w = true ↔ w &&& r.mask = r.word := decide_eq_true_iff

/-- A row's mask covers OP and the Z bits of its format; its match has nothing but OP set. -/
theorem row_layout : ∀ r ∈ opcodeTable, r.mask = 0xF0000000#32 ||| r.format.zMask ∧
    r.mask &&& 0xF0000000#32 = 0xF0000000#32 ∧ r.mask &&& r.format.zMask = r.format.zMask ∧
    r.word &&& 0xF0000000#32 = r.word ∧ r.word &&& r.format.zMask = 0#32 := by decide

theorem word_and_mask : ∀ r ∈ opcodeTable, r.word &&& r.mask = r.word := by decide

theorem row_eq_of_opField : ∀ r ∈ opcodeTable, ∀ r' ∈ opcodeTable, opField r.word = opField r'.word →
    r = r' := by decide

theorem exists_row (o : Op) : ∃ r ∈ opcodeTable, r.op = o := by cases o <;> decide

theorem opField_setWidth (w : U32) : (opField w).setWidth 32 <<< 28 = w &&& 0xF0000000#32 := by
  have hF : ∀ j < 32, (0xF0000000#32).getLsbD j = decide (28 ≤ j) := by decide
  refine BitVec.eq_of_getLsbD_eq fun j hj => ?_
  rw [BitVec.getLsbD_and, hF j hj, BitVec.getLsbD_shiftLeft, BitVec.getLsbD_setWidth, opField,
    BitVec.getLsbD_extractLsb']
  by_cases h : 28 ≤ j
  · have hj4 : j - 28 < 4 := by omega
    have hj32 : j - 28 < 32 := by omega
    simp [h, hj, hj4, hj32, Nat.not_lt.2 h]
  · simp [h]

theorem opField_and (w : U32) : opField (w &&& 0xF0000000#32) = opField w := by
  rw [opField, BitVec.extractLsb'_and]
  exact BitVec.and_allOnes

theorem opField_eq_iff (a b : U32) : opField a = opField b ↔ a &&& 0xF0000000#32 = b &&& 0xF0000000#32 := by
  constructor <;> intro h
  · rw [← opField_setWidth, h, opField_setWidth]
  · rw [← opField_and, h, opField_and]

/-- A row selects the words with its opcode whose Z bits are zero. -/
theorem selects_iff {r : Row} (hr : r ∈ opcodeTable) (w : U32) :
    r.selects w = true ↔ opField w = opField r.word ∧ w &&& r.format.zMask = 0#32 := by
  obtain ⟨hmask, hmaskOp, hmaskZ, hwordOp, hwordZ⟩ := row_layout r hr
  rw [selects_iff_mask]
  constructor
  · intro h
    rw [opField_eq_iff, ← h]
    exact ⟨by rw [BitVec.and_assoc, hmaskOp], by rw [← hmaskZ, ← BitVec.and_assoc, h, hwordZ]⟩
  · rintro ⟨hop, hz⟩
    rw [hmask, BitVec.and_or_distrib_left, (opField_eq_iff _ _).1 hop, hz, BitVec.or_zero, hwordOp]

theorem selects_unique {r r' : Row} {w : U32} (hr : r ∈ opcodeTable) (hr' : r' ∈ opcodeTable)
    (h : r.selects w = true) (h' : r'.selects w = true) : r' = r :=
  row_eq_of_opField r' hr' r hr (((selects_iff hr' w).1 h').1.symm.trans ((selects_iff hr w).1 h).1)

/-- Settles O8: the opcode of a word determines the row, whose Z bits then decide whether it selects the word. -/
theorem exactlyOneRowSelectsASpelledWord : Obligations.ExactlyOneRowSelectsASpelledWord := by
  refine fun w => ⟨fun ⟨r, hr, hspelled⟩ => ?_, fun hnone r hr => ?_⟩
  · have hsel := (selects_iff hr w).2 hspelled
    exact ⟨r, hr, hsel, fun r' hr' hsel' => selects_unique hr hr' hsel hsel'⟩
  · refine Bool.eq_false_of_not_eq_true fun hsel => ?_
    obtain ⟨hop, hz⟩ := (selects_iff hr w).1 hsel
    exact hnone r hr hop hz

/-! ### The decoder (R67) -/

/-- The search of the table finds the one row that selects the word. -/
theorem find_row_eq_some_iff {r : Row} {w : U32} :
    opcodeTable.find? (fun r => r.selects w) = some r ↔ r ∈ opcodeTable ∧ r.selects w = true := by
  constructor
  · exact fun h => ⟨List.mem_of_find?_eq_some h, List.find?_some (p := fun r : Row => r.selects w) h⟩
  · rintro ⟨hr, hsel⟩
    cases hfind : opcodeTable.find? (fun r => r.selects w) with
    | none => exact absurd hsel (List.find?_eq_none.1 hfind r hr)
    | some r' =>
      have hsel' : r'.selects w = true := List.find?_some (p := fun r : Row => r.selects w) hfind
      rw [selects_unique hr (List.mem_of_find?_eq_some hfind) hsel hsel']

theorem opField_lt_of_row {r : Row} {w : U32} (hr : r ∈ opcodeTable) (hop : opField w = opField r.word) :
    ¬ 0xB#4 ≤ opField w := by
  have hlt : ∀ r ∈ opcodeTable, ¬ 0xB#4 ≤ opField r.word := by decide
  exact hop ▸ hlt r hr

/-- A word decodes to the command of the row that selects it, and to no other. -/
theorem decode_eq_ok_iff {w : U32} {i : Instr} :
    decode w = .ok i ↔ ∃ r ∈ opcodeTable, r.selects w = true ∧ r.op.operands w = i := by
  constructor
  · intro h
    unfold decode at h
    split at h
    next => cases h
    next =>
      split at h
      next => cases h
      next r hfind =>
        obtain ⟨hr, hsel⟩ := find_row_eq_some_iff.1 hfind
        exact ⟨r, hr, hsel, Except.ok.inj h⟩
  · rintro ⟨r, hr, hsel, rfl⟩
    rw [decode, if_neg (opField_lt_of_row hr ((selects_iff hr w).1 hsel).1), find_row_eq_some_iff.2 ⟨hr, hsel⟩]

/-- R64: the opcode is checked first. -/
theorem decode_reservedOpcode {w : U32} (h : 0xB#4 ≤ opField w) : decode w = .error .opcode := if_pos h

/-- R65: the row of the word's opcode does not select the word, and no other row has that opcode. -/
theorem decode_reservedBits {w : U32} {r : Row} (hr : r ∈ opcodeTable) (hop : opField w = opField r.word)
    (hz : w &&& r.format.zMask ≠ 0#32) : decode w = .error .bits := by
  have hfind : opcodeTable.find? (fun r => r.selects w) = none := by
    refine List.find?_eq_none.2 fun r' hr' hsel' => hz ?_
    obtain ⟨hop', hz'⟩ := (selects_iff hr' w).1 hsel'
    rwa [row_eq_of_opField r hr r' hr' (hop.symm.trans hop')]
  rw [decode, if_neg (opField_lt_of_row hr hop), hfind]

/-! ### Encoder and decoder are inverse to each other -/

/-- A row selects the words that its command is encoded to. -/
theorem selects_encode_operands {r : Row} (hr : r ∈ opcodeTable) (w : U32) :
    r.selects (encode (r.op.operands w)) = true := by
  rw [selects_iff_mask, encode_operands w r hr]
  simp [BitVec.and_or_distrib_right, BitVec.and_assoc, word_and_mask r hr]

/-- Settles O6: the row of the command's opcode selects the word, and the fields give the operands back. -/
theorem decodeInvertsEncode : Obligations.DecodeInvertsEncode := by
  intro i hi
  obtain ⟨r, hr, ho⟩ := exists_row i.op
  have hoperands : r.op.operands (encode i) = i := by rw [ho, operands_encode hi]
  have hsel : r.selects (encode i) = true := by
    simpa only [hoperands] using selects_encode_operands hr (encode i)
  exact decode_eq_ok_iff.2 ⟨r, hr, hsel, hoperands⟩

/-- Settles O7: the row that selects the word gives its bits under the mask, the operands give the others. -/
theorem encodeInvertsDecode : Obligations.EncodeInvertsDecode := by
  intro w i h
  obtain ⟨r, hr, hsel, rfl⟩ := decode_eq_ok_iff.1 h
  refine ⟨wf_operands w r.op, ?_⟩
  calc encode (r.op.operands w) = r.word ||| (w &&& ~~~r.mask) := encode_operands w r hr
    _ = (w &&& r.mask) ||| (w &&& ~~~r.mask) := by rw [selects_iff_mask.1 hsel]
    _ = w := by rw [← BitVec.and_or_distrib_left, BitVec.or_not_self, BitVec.and_allOnes]

/-- Settles O9: each word decoded by the table. -/
theorem sampleWordsDecodeAsTheMapSays : Obligations.SampleWordsDecodeAsTheMapSays :=
  ⟨rfl, rfl, rfl, rfl, rfl, rfl, rfl, rfl, rfl⟩

end Sys2Proof
end

section
/-! PROOFS. The statements of 30_encoding.md about the step: what a word that decodes, a reserved word and a command in
the wrong state lead to (R64 to R67), the bytes of DIN a command reads (R71), and its device accesses (R74). -/

namespace Sys2Proof.Machine

/-! ### From the word to the command (R64 to R67) -/

/-- Settles O10: `step_eq_exec` says it. -/
theorem stepPerformsTheDecodedCommand : Obligations.StepPerformsTheDecodedCommand :=
  fun _ _ _ hs hc hi => step_eq_exec hs hc hi

/-- A step of a running block on a word that spells no command refuses it (R176). -/
theorem step_eq_refuse {s : State} {c : Command} {e : Reserved} (hs : s.running) (hc : s.fetch = some c)
    (he : decode c.cmd = .error e) : step s = .next (s.refuse (reservedReason e)) := by
  obtain ⟨hf, hr⟩ := hs
  simp only [step, hf, hr, hc, performCommand, he]

/-- Settles O11: the decoder rejects the word for its opcode. -/
theorem reservedOpcodesAreRefused : Obligations.ReservedOpcodesAreRefused :=
  fun _ _ hs hc hop => step_eq_refuse hs hc (decode_reservedOpcode hop)

/-- Settles O12: no row selects the word, so the decoder rejects it for its reserved bits. -/
theorem reservedBitsAreRefused : Obligations.ReservedBitsAreRefused :=
  fun _ _ _ hs hc hr hop hz => step_eq_refuse hs hc (decode_reservedBits hr hop hz)

theorem exec_wrongState {i : Instr} {s : State} (h : s.lstate ≠ needs i) :
    exec i s = .next (s.refuse .wrongState) := by
  obtain ⟨rule, hrule⟩ := exec_eq_perform i s
  rw [hrule, perform_wrongState h]

theorem needs_eq_ready {i : Instr} (h : ∀ b, i ≠ .init b) : needs i = .ready := by
  cases i with
  | init b => exact absurd rfl (h b)
  | regRd | regWr | regSet | regClr | idDump | chRd | chWr | blkRd | blkWr | exit => rfl

/-- Settles O14: the lifecycle check comes before every command's own rule. -/
theorem commandsInTheWrongStateAreRefused : Obligations.CommandsInTheWrongStateAreRefused :=
  ⟨fun _ _ hl => exec_wrongState hl, fun _ _ hi hl => exec_wrongState (needs_eq_ready hi ▸ hl)⟩

/-! ### DIN (R71) -/

/-- A command in progress has the inputs it began with: they are found by the list and the program index. -/
theorem InProgress.inputs {s u : State} (h : InProgress s u) : u.inputs = s.inputs := by
  simp only [State.inputs, State.fetch, h.program, h.pc]

/-- The word of BLK.WR depends on the first `n` bytes of DIN only. -/
theorem blockWord_congr {din din' : Vector U8 16} {n : Nat}
    (h : ∀ j : Fin 16, j.val < n → din'[j] = din[j]) (r : U16) :
    blockWord r din'.toList n = blockWord r din.toList n := by
  refine BitVec.eq_of_getLsbD_eq fun j hj => ?_
  rw [blockWord_getLsbD _ _ _ _ hj, blockWord_getLsbD _ _ _ _ hj]
  split
  next hn =>
    have hbyte : din'[j] = din[j] := h ⟨j, hj⟩ hn
    simp [List.getD, hj, hbyte]
  next => rfl

/-- Two runs that differ in the host's list alone, with the same draws at the index, keep that difference. -/
theorem program_simulation {s : State} {program' : List Command}
    (hdraws : { s with program := program' }.inputs =
      { s.inputs with din := { s with program := program' }.inputs.din }) :
    Simulation (fun u u' => InProgress s u ∧ u' = { u with program := program' })
      (fun t t' => t' = { t with program := program' }) s { s with program := program' } where
  start := ⟨.refl s, rfl⟩
  lstate := rfl
  legal := rfl
  identity := rfl
  reg := by rintro u _ ⟨-, rfl⟩; rfl
  draws := by
    rintro u _ ⟨hu, rfl⟩
    have hu' : InProgress { s with program := program' } { u with program := program' } := { hu with program := rfl }
    rw [hu'.inputs, hu.inputs]
    exact hdraws
  logged := by rintro u _ ⟨hu, rfl⟩ e; exact ⟨hu.logged e, rfl⟩
  regWritten := by rintro u _ ⟨hu, rfl⟩ v; exact ⟨hu.regWritten v, rfl⟩
  bound := by rintro u _ ⟨hu, rfl⟩ chk; exact ⟨hu.bound chk, rfl⟩
  released := by rintro u _ ⟨hu, rfl⟩; exact ⟨hu.released, rfl⟩
  completes := by rintro u _ ⟨-, rfl⟩ r -; rfl
  raises _ := rfl
  faults := by rintro u _ ⟨-, rfl⟩; rfl
  refuses _ := rfl

/-- Settles O35: the two runs are simulated, since BLK.WR alone reads DIN, and below its size only. -/
theorem unusedDinBytesAreIgnored : Obligations.UnusedDinBytesAreIgnored := by
  intro i s t program' hdraws hdin h
  obtain ⟨t', ht', rfl⟩ := (program_simulation hdraws).exec_next (fun _ _ => rfl)
    (fun size hi => blockWord_congr fun j hj => hdin size.toNat (by rw [hi, Int.toNat_of_nonneg (by omega)]) j hj) h
  exact ht'

/-! ### Accesses (R74) -/

theorem identityStatus_eq_ok_iff {s : State} :
    identityStatus s.params (s.idhWord 0) (s.idhWord 1) = .ok ↔ s.identityPasses :=
  ⟨identityPasses_of_identityStatus_ok, fun ⟨hmagic, hmodel⟩ => by simp [identityStatus, hmagic, hmodel]⟩

theorem sizeInvalid_eq_false_iff (size : Int) : sizeInvalid size = false ↔ 0 ≤ size ∧ size ≤ 16 := by
  rw [← Bool.not_eq_true, sizeInvalid_iff]
  omega

/-- From `s`, with `k` accesses of the command made, the rest of it makes the accesses `l` and ends in `t`: it faults
exactly when one of `l` does not complete, and otherwise the register transactions of `l` are what BUSLOG gains. -/
structure Makes (k : Nat) (s : State) (l : List Access) (t : State) : Prop where
  faults : t.fault = .busFault ↔ ∃ j < l.length, s.inputs.dBus (k + j) = false
  logs   : t.fault = .none → ∃ added : List BusEntry, t.busLog = s.busLog ++ added ∧
    added.map BusEntry.access = l.filter Access.isTransaction

namespace Makes

variable {k : Nat} {s u t : State} {l : List Access}

theorem nothing (hfault : t.fault = .none) (hlog : t.busLog = s.busLog) : Makes k s [] t where
  faults := by simp [hfault]
  logs _ := ⟨[], by simp [hlog], rfl⟩

/-- An access that does not complete is the last one, whatever the table lists after it (R175). -/
theorem fault (a : Access) (hk : s.inputs.dBus k = false) (hfault : t.fault = .busFault) : Makes k s (a :: l) t where
  faults := iff_of_true hfault ⟨0, Nat.succ_pos _, hk⟩
  logs hnone := nomatch hfault.symm.trans hnone

/-- An access that completes, and what comes after it. -/
theorem cons {a : Access} {new : List BusEntry} (h : Makes (k + 1) u l t) (hk : s.inputs.dBus k = true)
    (hinputs : u.inputs = s.inputs) (hlog : u.busLog = s.busLog ++ new)
    (hnew : new.map BusEntry.access = [a].filter Access.isTransaction) : Makes k s (a :: l) t where
  faults := by
    rw [h.faults, hinputs]
    constructor
    · rintro ⟨j, hj, hb⟩
      exact ⟨j + 1, Nat.succ_lt_succ hj, by rwa [Nat.add_comm j, ← Nat.add_assoc]⟩
    · rintro ⟨j, hj, hb⟩
      cases j with
      | zero => exact absurd (hk.symm.trans hb) (by decide)
      | succ j => exact ⟨j, Nat.lt_of_succ_lt_succ hj, by rwa [Nat.add_right_comm]⟩
  logs hnone := by
    obtain ⟨added, hadded, haccess⟩ := h.logs hnone
    refine ⟨new ++ added, by rw [hadded, hlog, List.append_assoc], ?_⟩
    rw [List.map_append, hnew, haccess, ← List.filter_append, List.singleton_append]

theorem memRead {after : U16 → State → State}
    (hafter : Makes (k + 1) (s.logged (.rd s.reg)) l (after s.reg (s.logged (.rd s.reg)))) :
    Makes k s (.memRead :: l) (memRead k s after) := by
  obtain ⟨hk, hm⟩ | ⟨hk, hm⟩ := memRead_cases k s after <;> rw [hm]
  · exact hafter.cons hk rfl rfl rfl
  · exact fault _ hk rfl

theorem memWrite {v : U16} {after : State → State}
    (hafter : Makes (k + 1) ((s.regWritten v).logged (.wr v)) l (after ((s.regWritten v).logged (.wr v)))) :
    Makes k s (.memWrite :: l) (memWrite k v s after) := by
  obtain ⟨hk, hm⟩ | ⟨hk, hm⟩ := memWrite_cases k v s after <;> rw [hm]
  · exact hafter.cons hk rfl rfl rfl
  · exact fault _ hk rfl

theorem idRead {j : Nat} {after : U16 → State → State} (hafter : Makes (k + 1) s l (after (s.idhWord j) s)) :
    Makes k s (.idRead j :: l) (idRead k j s after) := by
  obtain ⟨hk, hm⟩ | ⟨hk, hm⟩ := idRead_cases k j s after <;> rw [hm]
  · exact hafter.cons hk rfl (List.append_nil _).symm rfl
  · exact fault _ hk rfl

theorem validate {after : Status → State → State}
    (hafter : Makes 2 s l (after (identityStatus s.params (s.idhWord 0) (s.idhWord 1)) s)) :
    Makes 0 s (.idRead 0 :: .idRead 1 :: l) (validate s after) :=
  idRead (idRead hafter)

/-- A read/modify/write (R53) that answers a response when both its accesses complete. -/
theorem readModifyWrite (hf : s.fault = .none) (f : U16 → U16) (r : Response) :
    Makes 0 s [.memRead, .memWrite] (readModifyWrite f s fun s => s.latched r) :=
  memRead (memWrite (nothing hf rfl))

/-- The loop of ID.DUMP makes one access for each word (R104). -/
theorem idReadLoop (hf : s.fault = .none) (n j : Nat) (out : List U16) :
    Makes j s ((List.range' j n).map .idRead) (idReadLoop respondDump n j out s) := by
  induction n generalizing j out with
  | zero => exact nothing hf rfl
  | succ n ih => exact idRead (ih (j + 1) _)

/-- An accepted command passes its checks and comes to its own rule. -/
theorem perform {need : LState} (hl : s.lstate = need) (hp : regOffsetLegal s.params.regOffset = true)
    {rule : State → State} (h : Makes k s l (rule s)) : Makes k s l (perform need s rule) := by
  rwa [perform_accepted hl hp]

/-- The two block commands make no access when the size is out of range (R124). -/
theorem sizeChecked (hf : s.fault = .none) {size : Int} (h : Makes 0 s l t) :
    Makes 0 s (if 0 ≤ size ∧ size ≤ 16 then l else []) (if sizeInvalid size then raise .invalidSize s else t) := by
  simp only [← sizeInvalid_eq_false_iff]
  cases sizeInvalid size with
  | true => exact nothing hf rfl
  | false => exact h

/-- INIT past its checks (R150): no access without storage; the header reads when the identity check is enabled; the
register reset unless the check fails. -/
theorem init (hf : s.fault = .none) (nochk : Bool) :
    Makes 0 s (footprint s (.init nochk))
      (if s.inputs.alloc = false then raise .allocFail s
      else if nochk then initFinish 0 false s
      else Machine.validate s fun st s => if st ≠ .ok then raise st s else initFinish 2 true s) := by
  simp only [footprint]
  split
  · exact nothing hf rfl
  split
  · exact memWrite (nothing hf rfl)
  split
  next hpasses =>
    refine validate ?_
    rw [if_neg (not_not.2 (identityStatus_eq_ok_iff.2 hpasses))]
    exact memWrite (nothing hf rfl)
  next hfails =>
    refine validate ?_
    rw [if_pos (mt identityStatus_eq_ok_iff.1 hfails)]
    exact nothing hf rfl

/-- ID.DUMP past its checks (R104): no access into a short buffer. -/
theorem idDump (hf : s.fault = .none) (len : Nat) :
    Makes 0 s (footprint s (.idDump len))
      (if len < Config.idhBytes then raise .bufferTooSmall s
      else Machine.idReadLoop respondDump Config.idhWords 0 [] s) := by
  simp only [footprint, ge_iff_le, ← Nat.not_lt]
  by_cases hlen : len < 128
  · rw [if_neg (not_not.2 hlen), if_pos hlen]
    exact nothing hf rfl
  · rw [if_pos hlen, if_neg hlen, List.range_eq_range']
    exact idReadLoop hf 64 0 []

end Makes

/-- An accepted command makes the accesses of its row of R74. -/
theorem exec_makes_footprint {i : Instr} {s : State} (ha : s.accepts i) (hf : s.fault = .none) :
    ∃ t, exec i s = .next t ∧ Makes 0 s (footprint s i) t := by
  obtain ⟨hl, hp⟩ := ha
  cases i with
  | regRd => exact ⟨_, rfl, .perform hl hp (.memRead (.nothing hf rfl))⟩
  | chRd ch => exact ⟨_, rfl, .perform hl hp (.memRead (.nothing hf rfl))⟩
  | regWr v => exact ⟨_, rfl, .perform hl hp (.memWrite (.nothing hf rfl))⟩
  | exit => exact ⟨_, rfl, .perform hl hp (.memWrite (.nothing hf rfl))⟩
  | regSet m => exact ⟨_, rfl, .perform hl hp (.readModifyWrite hf _ _)⟩
  | regClr m => exact ⟨_, rfl, .perform hl hp (.readModifyWrite hf _ _)⟩
  | chWr ch value => exact ⟨_, rfl, .perform hl hp (.readModifyWrite hf _ _)⟩
  | blkRd size => exact ⟨_, rfl, .perform hl hp (.sizeChecked hf (.memRead (.nothing hf rfl)))⟩
  | blkWr size => exact ⟨_, rfl, .perform hl hp (.sizeChecked hf (.readModifyWrite hf _ _))⟩
  | idDump len => exact ⟨_, rfl, .perform hl hp (.idDump hf len)⟩
  | init nochk => exact ⟨_, rfl, .perform hl hp (.init hf nochk)⟩

/-- Settles O42, from `exec_makes_footprint` at the command's first access. -/
theorem accessesAreTheListedOnes : Obligations.AccessesAreTheListedOnes := by
  intro i s ha hf
  obtain ⟨t, ht, hmakes⟩ := exec_makes_footprint ha hf
  exact ⟨t, ht, by simpa only [Nat.zero_add] using hmakes.faults, hmakes.logs⟩

end Sys2Proof.Machine
end

section
/-! PROOFS. The statements of 40_register_access.md: what each register primitive answers and leaves unchanged (R80 to
R83), and the laws of two primitives one after the other (R84). -/

namespace Sys2Proof.Machine

/-! ### An accepted command comes to its own rule -/

theorem exec_of_accepts {i : Instr} {s : State} {rule : State → State} (ha : s.accepts i)
    (hi : exec i s = .next (perform (needs i) s rule)) : exec i s = .next (rule s) := by
  obtain ⟨hl, hp⟩ := ha
  rw [hi, perform_accepted hl hp]

theorem exec_regRd {s : State} (ha : s.accepts .regRd) : exec .regRd s = .next (memRead 0 s respondData) :=
  exec_of_accepts ha rfl

theorem exec_regWr {s : State} {v : U16} (ha : s.accepts (.regWr v)) :
    exec (.regWr v) s = .next (memWrite 0 v s respondOk) :=
  exec_of_accepts ha rfl

theorem exec_regSet {s : State} {m : U16} (ha : s.accepts (.regSet m)) :
    exec (.regSet m) s = .next (readModifyWrite (· ||| m) s respondOk) :=
  exec_of_accepts ha rfl

theorem exec_regClr {s : State} {m : U16} (ha : s.accepts (.regClr m)) :
    exec (.regClr m) s = .next (readModifyWrite (· &&& ~~~m) s respondOk) :=
  exec_of_accepts ha rfl

/-! ### One command -/

/-- Settles O18: the one access completes or faults. -/
theorem regRdAnswersTheRegister : Obligations.RegRdAnswersTheRegister :=
  ⟨rfl, fun _ ha =>
    ⟨fun h => (exec_regRd ha).trans (congrArg _ (memRead_completes h _)),
      fun h => (exec_regRd ha).trans (congrArg _ (memRead_faults h _))⟩⟩

/-- Settles O19: the one access completes or faults. -/
theorem regWrWritesTheRegister : Obligations.RegWrWritesTheRegister :=
  ⟨fun _ => rfl, fun _ _ ha =>
    ⟨fun h => (exec_regWr ha).trans (congrArg _ (memWrite_completes h _ _)),
      fun h => (exec_regWr ha).trans (congrArg _ (memWrite_faults h _ _))⟩⟩

/-- The three ways a command ends that is one read/modify/write (R53) answering `r`, each as the whole next state. -/
theorem exec_readModifyWrite {i : Instr} {s : State} {f : U16 → U16} {r : Response}
    (hi : exec i s = .next (readModifyWrite f s fun s => s.latched r)) :
    (s.inputs.dBus 0 = true → s.inputs.dBus 1 = true →
      exec i s = .next { s with
        reg := f s.reg, rsp := r, busLog := s.busLog ++ [.rd s.reg, .wr (f s.reg)], pc := s.pc + 1 }) ∧
    (s.inputs.dBus 0 = false → exec i s = .next { s with fault := .busFault }) ∧
    (s.inputs.dBus 0 = true → s.inputs.dBus 1 = false →
      exec i s = .next { s with
        reg := s.inputs.regAfterFault, busLog := s.busLog ++ [.rd s.reg], fault := .busFault }) := by
  refine ⟨fun h0 h1 => ?_, fun h0 => ?_, fun h0 h1 => ?_⟩
  · rw [hi, readModifyWrite_completes h0 h1]
    simp [State.latched, State.logged, State.regWritten]
  · exact hi.trans (congrArg _ (readModifyWrite_readFaults h0 f _))
  · exact hi.trans (congrArg _ (readModifyWrite_writeFaults h0 h1 f _))

/-- Settles O20: REG.SET is a read/modify/write. -/
theorem regSetSetsTheMask : Obligations.RegSetSetsTheMask :=
  ⟨fun _ => rfl, fun _ _ ha => exec_readModifyWrite (exec_regSet ha)⟩

/-- Settles O21: REG.CLR is a read/modify/write. -/
theorem regClrClearsTheMask : Obligations.RegClrClearsTheMask :=
  ⟨fun _ => rfl, fun _ _ ha => exec_readModifyWrite (exec_regClr ha)⟩

/-! ### One command after the other -/

/-- The accesses of a command that `State.issues` speaks of all complete. -/
theorem State.issues.dBus {s : State} {i : Instr} (h : s.issues 0 i) (k : Nat) : s.inputs.dBus k = true := by
  obtain ⟨x, hx, hnone⟩ := h
  rw [inputs_of_fetch hx]
  exact dBus_of_none hnone k

/-- A running block performs the well-formed command that the host issues. -/
theorem State.issues.step {s : State} {i : Instr} (h : s.issues 0 i) (hwf : i.wf = true) (hrun : s.running) :
    step s = exec i s := by
  obtain ⟨x, hx, -⟩ := h
  exact step_eq_exec hrun hx (decodeInvertsEncode i hwf)

theorem State.accepts_of_operational {s : State} {i : Instr} (hs : s.operational) (hi : needs i = .ready) :
    s.accepts i := by
  obtain ⟨-, hl, hp⟩ := hs
  exact ⟨hl.trans hi.symm, hp⟩

/-- The command that the host issues in `s` has completed in `u`, and the host goes on there with the commands after
it. -/
structure Completes (s u : State) : Prop where
  step        : step s = .next u
  operational : u.operational
  issues      : ∀ {n : Nat} {i : Instr}, s.issues (n + 1) i → u.issues n i

/-- A command that answers `r` after its register transactions leaves the block operational, one command further. -/
theorem completes_of_accessed {s w : State} {i : Instr} {r : Response} (hs : s.operational) (hi : s.issues 0 i)
    (hwf : i.wf = true) (hw : Accessed s w) (hexec : exec i s = .next (w.latched r)) :
    Completes s (w.latched r) := by
  obtain ⟨⟨hf, hr⟩, hl, hp⟩ := hs
  have hprog := hw.inProgress
  obtain ⟨hlstate, -⟩ := hw.lifecycle
  refine ⟨(hi.step hwf ⟨hf, hr⟩).trans hexec,
    ⟨⟨hprog.fault.trans hf, hprog.refused.trans hr⟩, hlstate.trans hl, ?_⟩, ?_⟩
  · rwa [State.latched_params, hprog.params]
  · rintro n j ⟨x, hx, hnone⟩
    refine ⟨x, ?_, hnone⟩
    rwa [State.latched_program, State.latched_pc, hprog.program, hprog.pc, Nat.add_right_comm]

/-- Issued to an operational block, the command completes and takes REG through `f`. -/
def TakesRegThrough (i : Instr) (f : U16 → U16) : Prop :=
  ∀ s : State, s.operational → s.issues 0 i → ∃ u, Completes s u ∧ u.reg = f s.reg

theorem takesRegThrough_of_readModifyWrite {i : Instr} {f : U16 → U16} {r : Response} (hwf : i.wf = true)
    (hready : needs i = .ready)
    (hexec : ∀ s : State, s.accepts i → exec i s = .next (readModifyWrite f s fun s => s.latched r)) :
    TakesRegThrough i f := by
  intro s hs hi
  have hdone := (hexec s (State.accepts_of_operational hs hready)).trans
    (congrArg _ (readModifyWrite_completes (hi.dBus 0) (hi.dBus 1) f _))
  exact ⟨_, completes_of_accessed hs hi hwf (.readWrite _) hdone, rfl⟩

theorem regSet_takesRegThrough (m : U16) : TakesRegThrough (.regSet m) (· ||| m) :=
  takesRegThrough_of_readModifyWrite rfl rfl fun _ ha => exec_regSet ha

theorem regClr_takesRegThrough (m : U16) : TakesRegThrough (.regClr m) (· &&& ~~~m) :=
  takesRegThrough_of_readModifyWrite rfl rfl fun _ ha => exec_regClr ha

theorem regWr_takesRegThrough (v : U16) : TakesRegThrough (.regWr v) (fun _ => v) := by
  intro s hs hi
  have hdone := (exec_regWr (State.accepts_of_operational hs rfl)).trans
    (congrArg _ (memWrite_completes (hi.dBus 0) v _))
  exact ⟨_, completes_of_accessed hs hi rfl (.write v) hdone, rfl⟩

theorem regRd_completes {s : State} (hs : s.operational) (hi : s.issues 0 .regRd) :
    ∃ u, Completes s u ∧ u.rsp = ⟨.ok, s.reg, 0, [], []⟩ := by
  have hdone := (exec_regRd (State.accepts_of_operational hs rfl)).trans
    (congrArg _ (memRead_completes (hi.dBus 0) _))
  exact ⟨_, completes_of_accessed hs hi rfl .read hdone, rfl⟩

/-- Two commands one after the other take REG through both their functions. -/
theorem TakesRegThrough.comp {i j : Instr} {f g : U16 → U16} (hf : TakesRegThrough i f) (hg : TakesRegThrough j g)
    {s : State} (hs : s.operational) (hi : s.issues 0 i) (hj : s.issues 1 j) :
    ∃ u t, step s = .next u ∧ step u = .next t ∧ t.reg = g (f s.reg) := by
  obtain ⟨u, hu, hureg⟩ := hf s hs hi
  obtain ⟨t, ht, htreg⟩ := hg u hu.operational (hu.issues hj)
  exact ⟨u, t, hu.step, ht.step, by rw [htreg, hureg]⟩

theorem or_and_not_self (r m : U16) : (r ||| m) &&& ~~~m = r &&& ~~~m := by
  rw [BitVec.and_or_distrib_right, BitVec.and_not_self]
  exact BitVec.or_zero

theorem and_not_or_self (r m : U16) : (r &&& ~~~m) ||| m = r ||| m := by
  ext j hj
  rw [BitVec.getElem_or, BitVec.getElem_and, BitVec.getElem_not, BitVec.getElem_or, Bool.or_and_distrib_right,
    Bool.not_or_self, Bool.and_true]

/-- Settles O22: the first four laws are those of `|||` and `&&& ~~~`, applied to REG one after the other. -/
theorem registerPrimitivesCompose : Obligations.RegisterPrimitivesCompose := by
  intro s m m' v hs
  refine ⟨fun hi hj => ?_, fun hi hj => ?_, fun hi hj => ?_, fun hi hj => ?_, fun hi hj => ?_⟩
  · rw [← or_and_not_self]
    exact (regSet_takesRegThrough m).comp (regClr_takesRegThrough m) hs hi hj
  · rw [← and_not_or_self]
    exact (regClr_takesRegThrough m).comp (regSet_takesRegThrough m) hs hi hj
  · exact (regSet_takesRegThrough m).comp (regSet_takesRegThrough m') hs hi hj
  · rw [BitVec.or_assoc, BitVec.or_comm m, ← BitVec.or_assoc]
    exact (regSet_takesRegThrough m').comp (regSet_takesRegThrough m) hs hi hj
  · obtain ⟨u, hu, hureg⟩ := regWr_takesRegThrough v s hs hi
    obtain ⟨t, ht, hrsp⟩ := regRd_completes hu.operational (hu.issues hj)
    exact ⟨u, t, hu.step, ht.step, by rw [hrsp, hureg]⟩

end Sys2Proof.Machine
end

section
/-! PROOFS. The statements of 41_identity.md: what ID.DUMP answers (R104), what INIT with the check enabled makes of the
two header words it reads (R100, R101, R103), and which error statuses each command can raise (R172, R102). -/

namespace Sys2Proof.Machine

/-! ### ID.DUMP (R104) -/

theorem exec_idDump {s : State} {len : Nat} (ha : s.accepts (.idDump len)) :
    exec (.idDump len) s = .next (if len < Config.idhBytes then raise .bufferTooSmall s
      else idReadLoop respondDump Config.idhWords 0 [] s) :=
  exec_of_accepts ha rfl

/-- With the buffer large enough, only the loop of header reads is left. -/
theorem exec_idDump_of_le {s : State} {len : Nat} (ha : s.accepts (.idDump len)) (hlen : 128 ≤ len) :
    exec (.idDump len) s = .next (idReadLoop respondDump Config.idhWords 0 [] s) :=
  (exec_idDump ha).trans (congrArg _ (if_neg (Nat.not_lt.2 hlen)))

/-- The words of the header read one after the other are the header. -/
theorem map_idhWord_range (s : State) : (List.range 64).map s.idhWord = s.idh.toList := by
  refine List.ext_getElem (by simp) fun j hj _ => ?_
  have hj64 : j < 64 := by simpa using hj
  simp [idhWord_eq s j hj64]

/-- Settles O23: below 128 bytes no header word is read; otherwise the loop reads all 64 or stops at the first fault. -/
theorem idDumpAnswersTheWholeHeader : Obligations.IdDumpAnswersTheWholeHeader := by
  refine ⟨fun len hlen => ?_, fun s len ha => ⟨fun hlen => ?_, fun hlen hbus => ?_, fun hlen hbus => ?_⟩⟩
  · rw [encode, BitVec.setWidth_ofNat_of_le_of_lt (by decide) hlen]
  · exact (exec_idDump ha).trans (congrArg _ (if_pos hlen))
  · rw [exec_idDump_of_le ha hlen, idReadLoop_completes _ _ _ _ _ fun k _ hk => hbus k (by simpa using hk)]
    simp only [Nat.zero_add, List.nil_append, map_idhWord_range]
    rfl
  · obtain ⟨k, hk, hfault⟩ := hbus
    rw [exec_idDump_of_le ha hlen, idReadLoop_faults _ _ _ _ _ ⟨k, Nat.zero_le k, by simpa using hk, hfault⟩]
    rfl

/-! ### INIT with the check enabled (R100, R101, R103) -/

/-- With storage available, INIT with the check enabled comes to Validate. -/
theorem exec_init_validates {s : State} (ha : s.accepts (.init false)) (halloc : s.inputs.alloc = true) :
    exec (.init false) s =
      .next (validate s fun st s => if st ≠ .ok then raise st s else initFinish 2 true s) := by
  rw [exec_of_accepts ha rfl, halloc]
  rfl

/-- What INIT does with the answer of Validate, when both header reads complete. -/
theorem exec_init_identityStatus {s : State} (ha : s.accepts (.init false)) (halloc : s.inputs.alloc = true)
    (h0 : s.inputs.dBus 0 = true) (h1 : s.inputs.dBus 1 = true) {e : Status}
    (he : identityStatus s.params s.idh[0] s.idh[1] = e) :
    exec (.init false) s = .next (if e ≠ .ok then raise e s else initFinish 2 true s) := by
  rw [exec_init_validates ha halloc, validate_completes h0 h1, idhWord_eq s 0 (by decide),
    idhWord_eq s 1 (by decide), he]

theorem identityStatus_badMagic {p : Config.Params} {w0 : U16} (h0 : w0 ≠ p.magic) (w1 : U16) :
    identityStatus p w0 w1 = .badMagic := if_pos h0

/-- The three codes of P_MODEL_CODES (R103). -/
def acceptedCodes (c : Config.ModelCodes) : List U16 := [c.codeA, c.codeB, c.codeC]

theorem acceptedCodes_nodup (c : Config.ModelCodes) : (acceptedCodes c).Nodup := by
  obtain ⟨hab, hac, hbc⟩ := c.pairwise_ne
  simp [acceptedCodes, hab, hac, hbc]

theorem modelAccepted_iff_mem (c : Config.ModelCodes) (w : U16) :
    modelAccepted c w = true ↔ w ∈ acceptedCodes c := by
  simp [modelAccepted, acceptedCodes]

/-- With the right magic word, the model code decides. -/
theorem identityStatus_of_magic {p : Config.Params} {w0 : U16} (h0 : w0 = p.magic) (w1 : U16) :
    identityStatus p w0 w1 = if w1 ∈ acceptedCodes p.modelCodes then .ok else .unknownModel := by
  simp only [← modelAccepted_iff_mem]
  cases hm : modelAccepted p.modelCodes w1 <;> simp [identityStatus, h0, hm]

/-- Settles O24: Validate answers the failed check, the magic word's first, or a header read faults. -/
theorem initReportsAFailedIdentityCheck : Obligations.InitReportsAFailedIdentityCheck := by
  refine fun s ha halloc => ⟨fun h0 h1 hmagic => ?_, fun h0 h1 hmagic hA hB hC => ?_, fun hbus => ?_⟩
  · exact exec_init_identityStatus ha halloc h0 h1 (identityStatus_badMagic hmagic _)
  · have hnot : s.idh[1] ∉ acceptedCodes s.params.modelCodes := by simp [acceptedCodes, hA, hB, hC]
    exact exec_init_identityStatus ha halloc h0 h1 ((identityStatus_of_magic hmagic _).trans (if_neg hnot))
  · exact (exec_init_validates ha halloc).trans (congrArg _ (validate_faults hbus _))

/-- Settles O46: the three codes of the parameters, pairwise distinct by their type, are the list that Validate compares
header word 1 with. -/
theorem exactlyThreeModelCodesAreAccepted : Obligations.ExactlyThreeModelCodesAreAccepted := by
  intro p
  refine ⟨acceptedCodes p.modelCodes, rfl, acceptedCodes_nodup _, ?_⟩
  rintro s rfl ha halloc hnone hmagic
  have hexec := exec_init_identityStatus ha halloc (dBus_of_none hnone 0) (dBus_of_none hnone 1)
    (identityStatus_of_magic hmagic s.idh[1])
  by_cases hmem : s.idh[1] ∈ acceptedCodes s.params.modelCodes
  · rw [if_pos hmem, if_neg (not_not.2 rfl), initFinish, memWrite_completes (dBus_of_none hnone 2)] at hexec
    exact ⟨_, hexec, fun _ => ⟨rfl, rfl⟩, fun hnot => absurd hmem hnot⟩
  · rw [if_neg hmem] at hexec
    obtain ⟨huninit, -⟩ := ha
    exact ⟨_, hexec, fun hin => absurd hin hmem, fun _ => ⟨rfl, huninit⟩⟩

/-! ### The error statuses of each command (R172) -/

/-- The column "commands" of R172, read by command. -/
def errorStatuses : Instr → List Status
  | .idDump _           => [.bufferTooSmall]
  | .blkRd _ | .blkWr _ => [.invalidSize]
  | .init true          => [.allocFail]
  | .init false         => [.allocFail, .badMagic, .unknownModel]
  | .regRd | .regWr _ | .regSet _ | .regClr _ | .chRd _ | .chWr _ _ | .exit => []

/-- A command begun in `s` and ended in `t` has not completed, or has answered OK or an error status of `l`. -/
def RaisesOnly (l : List Status) (s t : State) : Prop :=
  t.pc = s.pc + 1 → t.rsp.status = .ok ∨ t.rsp.status ∈ l

namespace RaisesOnly

variable {l : List Status} {s t : State}

/-- A fault and a refusal leave the program index where it is (R28). -/
theorem stops (h : t.pc = s.pc) : RaisesOnly l s t :=
  fun hpc => absurd (h.symm.trans hpc) (Nat.ne_of_lt (Nat.lt_succ_self s.pc))

theorem answersOk (h : t.rsp.status = .ok) : RaisesOnly l s t := fun _ => .inl h

theorem raises {e : Status} (h : e ∈ l) : RaisesOnly l s (raise e s) := fun _ => .inr h

theorem perform {need : LState} {rule : State → State} (hrule : RaisesOnly l s (rule s)) :
    RaisesOnly l s (perform need s rule) := by
  obtain ⟨-, hp⟩ | ⟨-, -, hp⟩ | ⟨-, -, hp⟩ := perform_cases need s rule <;> rw [hp]
  · exact stops rfl
  · exact stops rfl
  · exact hrule

theorem memRead {k : Nat} {after : U16 → State → State}
    (hafter : RaisesOnly l s (after s.reg (s.logged (.rd s.reg)))) : RaisesOnly l s (memRead k s after) := by
  obtain ⟨-, hm⟩ | ⟨-, hm⟩ := memRead_cases k s after <;> rw [hm]
  · exact hafter
  · exact stops rfl

theorem memWrite {k : Nat} {v : U16} {after : State → State}
    (hafter : RaisesOnly l s (after ((s.regWritten v).logged (.wr v)))) :
    RaisesOnly l s (memWrite k v s after) := by
  obtain ⟨-, hm⟩ | ⟨-, hm⟩ := memWrite_cases k v s after <;> rw [hm]
  · exact hafter
  · exact stops rfl

/-- A read/modify/write (R53) with an OK response after it. -/
theorem readModifyWrite (f : U16 → U16) {r : Response} (hr : r.status = .ok) :
    RaisesOnly l s (readModifyWrite f s fun s => s.latched r) :=
  memRead (memWrite (s := s.logged (.rd s.reg)) (answersOk hr))

theorem idRead {k j : Nat} {after : U16 → State → State} (hafter : RaisesOnly l s (after (s.idhWord j) s)) :
    RaisesOnly l s (idRead k j s after) := by
  obtain ⟨-, hm⟩ | ⟨-, hm⟩ := idRead_cases k j s after <;> rw [hm]
  · exact hafter
  · exact stops rfl

theorem idReadLoop {after : List U16 → State → State} (hafter : ∀ words, RaisesOnly l s (after words s))
    (n j : Nat) (out : List U16) : RaisesOnly l s (idReadLoop after n j out s) := by
  induction n generalizing j out with
  | zero => exact hafter out
  | succ n ih => exact idRead (ih _ _)

/-- A check that raises `e` before the rest of the command (R13). -/
theorem checked {c : Prop} [Decidable c] {e : Status} (he : e ∈ l) (ht : RaisesOnly l s t) :
    RaisesOnly l s (if c then raise e s else t) := by
  split
  · exact raises he
  · exact ht

theorem initFinish (k : Nat) (chk : Bool) : RaisesOnly l s (initFinish k chk s) := memWrite (answersOk rfl)

/-- The identity check of INIT raises what Validate answers (R100). -/
theorem validate (hbad : .badMagic ∈ l) (hunknown : .unknownModel ∈ l) :
    RaisesOnly l s (validate s fun st s => if st ≠ .ok then raise st s else Machine.initFinish 2 true s) := by
  refine idRead (idRead ?_)
  obtain ⟨-, hst⟩ | ⟨-, -, hst⟩ | ⟨-, -, hst⟩ :=
    identityStatus_cases s.params (s.idhWord 0) (s.idhWord 1) <;> rw [hst]
  · exact raises hbad
  · exact raises hunknown
  · exact initFinish 2 true

end RaisesOnly

/-- Every command raises the error statuses of its row of R172 only. -/
theorem exec_raisesOnly (i : Instr) (s : State) : ∃ t, exec i s = .next t ∧ RaisesOnly (errorStatuses i) s t := by
  cases i with
  | regRd => exact ⟨_, rfl, .perform (.memRead (.answersOk rfl))⟩
  | chRd ch => exact ⟨_, rfl, .perform (.memRead (.answersOk rfl))⟩
  | regWr v => exact ⟨_, rfl, .perform (.memWrite (.answersOk rfl))⟩
  | exit => exact ⟨_, rfl, .perform (.memWrite (.answersOk rfl))⟩
  | regSet m => exact ⟨_, rfl, .perform (.readModifyWrite _ rfl)⟩
  | regClr m => exact ⟨_, rfl, .perform (.readModifyWrite _ rfl)⟩
  | chWr ch value => exact ⟨_, rfl, .perform (.readModifyWrite _ rfl)⟩
  | blkRd size => exact ⟨_, rfl, .perform (.checked (.head _) (.memRead (.answersOk rfl)))⟩
  | blkWr size => exact ⟨_, rfl, .perform (.checked (.head _) (.readModifyWrite _ rfl))⟩
  | idDump len =>
    exact ⟨_, rfl, .perform (.checked (.head _) (.idReadLoop (fun _ => .answersOk rfl) _ _ _))⟩
  | init nochk =>
    cases nochk with
    | true => exact ⟨_, rfl, .perform (.checked (.head _) (.initFinish 0 false))⟩
    | false => exact ⟨_, rfl, .perform (.checked (.head _) (.validate (by decide) (by decide)))⟩

theorem eq_init_false_of_identity_error {i : Instr}
    (h : .badMagic ∈ errorStatuses i ∨ .unknownModel ∈ errorStatuses i) : i = .init false := by
  cases i with
  | init nochk =>
    cases nochk with
    | false => rfl
    | true => simp [errorStatuses] at h
  | regRd | regWr | regSet | regClr | idDump | chRd | chWr | blkRd | blkWr | exit => simp [errorStatuses] at h

/-- Settles O25: the two statuses stand in one row of `errorStatuses`. -/
theorem onlyInitReportsIdentityErrors : Obligations.OnlyInitReportsIdentityErrors := by
  intro i s t h hpc hst
  obtain ⟨t₀, ht₀, hraises⟩ := exec_raisesOnly i s
  obtain rfl : t₀ = t := Host.Outcome.next.inj (ht₀.symm.trans h)
  obtain hok | hmem := hraises hpc
  · rw [hok] at hst
    exact absurd hst (by decide)
  · obtain hbad | hunknown := hst
    · exact eq_init_false_of_identity_error (.inl (hbad ▸ hmem))
    · exact eq_init_false_of_identity_error (.inr (hunknown ▸ hmem))

end Sys2Proof.Machine
end

section
/-! PROOFS. The statements of 42_channel_codec.md: what the channel commands answer and leave unchanged (R120, R121),
the size check of the block commands and what they move between the register and the buffer (R123 to R126), and a write
followed by a read (R122, R127). -/

namespace Sys2Proof.Machine

/-! ### A command that is one register read -/

/-- The two ways a command ends that is one register read answering `g` of REG, each as the whole next state. -/
theorem exec_memRead {i : Instr} {s : State} {g : U16 → Response}
    (hi : exec i s = .next (memRead 0 s fun r s => s.latched (g r))) :
    (s.inputs.dBus 0 = true →
      exec i s = .next { s with rsp := g s.reg, busLog := s.busLog ++ [.rd s.reg], pc := s.pc + 1 }) ∧
    (s.inputs.dBus 0 = false → exec i s = .next { s with fault := .busFault }) :=
  ⟨fun h => hi.trans (congrArg _ (memRead_completes h _)), fun h => hi.trans (congrArg _ (memRead_faults h _))⟩

theorem completes_of_memRead {i : Instr} {s : State} {g : U16 → Response} (hs : s.operational) (hi : s.issues 0 i)
    (hwf : i.wf = true) (hexec : exec i s = .next (memRead 0 s fun r s => s.latched (g r))) :
    ∃ u, Completes s u ∧ u.rsp = g s.reg ∧ u.reg = s.reg := by
  have hdone := hexec.trans (congrArg _ (memRead_completes (hi.dBus 0) _))
  exact ⟨_, completes_of_accessed hs hi hwf .read hdone, rfl, rfl⟩

/-! ### CH.RD and CH.WR (R120, R121) -/

theorem exec_chRd {s : State} {ch : Fin 16} (ha : s.accepts (.chRd ch)) :
    exec (.chRd ch) s = .next (memRead 0 s fun r s => respondData (bit16 (r.getLsbD ch.val)) s) := by
  simp only [← chBit_eq]
  exact exec_of_accepts ha rfl

/-- Settles O28: the one access completes or faults. -/
theorem chRdAnswersTheChannel : Obligations.ChRdAnswersTheChannel :=
  ⟨fun _ => rfl, fun _ _ ha => exec_memRead (exec_chRd ha)⟩

/-- The word that CH.WR writes when it has read `r` (R121). -/
def channelWritten (ch : Fin 16) (value : Bool) (r : U16) : U16 :=
  if value then r ||| chMask ch else r &&& ~~~(chMask ch)

theorem channelWritten_getLsbD (ch : Fin 16) (value : Bool) (r : U16) {j : Nat} (hj : j < 16) :
    (channelWritten ch value r).getLsbD j = if j = ch.val then value else r.getLsbD j := by
  cases value with
  | true =>
    rw [channelWritten, if_pos rfl, BitVec.getLsbD_or, chMask_getLsbD]
    by_cases h : j = ch.val <;> simp [h]
  | false =>
    rw [channelWritten, if_neg Bool.false_ne_true, BitVec.getLsbD_and, BitVec.getLsbD_not, chMask_getLsbD]
    by_cases h : j = ch.val <;> simp [h, hj]

theorem exec_chWr {s : State} {ch : Fin 16} {value : Bool} (ha : s.accepts (.chWr ch value)) :
    exec (.chWr ch value) s = .next (readModifyWrite (channelWritten ch value) s respondOk) :=
  exec_of_accepts ha rfl

/-- Settles O29: CH.WR is a read/modify/write. -/
theorem chWrWritesOneChannel : Obligations.ChWrWritesOneChannel := by
  refine ⟨fun _ _ => rfl, fun s ch value ha => ?_⟩
  obtain ⟨hdone, hread, hwrite⟩ := exec_readModifyWrite (exec_chWr ha)
  exact ⟨fun h0 h1 => ⟨_, fun j hj => channelWritten_getLsbD ch value s.reg hj, hdone h0 h1⟩, hread, hwrite⟩

theorem chWr_takesRegThrough (ch : Fin 16) (value : Bool) :
    TakesRegThrough (.chWr ch value) (channelWritten ch value) :=
  takesRegThrough_of_readModifyWrite rfl rfl fun _ ha => exec_chWr ha

/-- Settles O30: CH.RD answers one bit of the word that CH.WR has written. -/
theorem channelWritesAreIsolated : Obligations.ChannelWritesAreIsolated := by
  intro s c c' v hs hi hj
  obtain ⟨u, hu, hureg⟩ := chWr_takesRegThrough c v s hs hi
  obtain ⟨t, ht, hrsp, -⟩ := completes_of_memRead hu.operational (hu.issues hj) rfl
    (exec_chRd (State.accepts_of_operational hu.operational rfl))
  refine ⟨u, t, hu.step, ht.step, ?_⟩
  rw [hrsp, hureg, channelWritten_getLsbD c v s.reg c'.isLt]
  simp only [Fin.ext_iff]
  rfl

/-! ### The size check of the block commands (R124) -/

theorem sizeChecked_of_invalid {size : Int} (h : size < 0 ∨ 16 < size) (s t : State) :
    (if sizeInvalid size then raise .invalidSize s else t) = raise .invalidSize s :=
  if_pos ((sizeInvalid_iff size).2 h)

theorem sizeChecked_of_valid {size : Int} (h0 : 0 ≤ size) (h16 : size ≤ 16) (s t : State) :
    (if sizeInvalid size then raise .invalidSize s else t) = t :=
  if_neg (ne_true_of_eq_false ((sizeInvalid_eq_false_iff size).2 ⟨h0, h16⟩))

theorem exec_blkRd {s : State} {size : Int} (ha : s.accepts (.blkRd size)) :
    exec (.blkRd size) s = .next (if sizeInvalid size then raise .invalidSize s
      else memRead 0 s fun r s => respondBlock size.toNat (unpack r size.toNat) s) :=
  exec_of_accepts ha rfl

theorem exec_blkWr {s : State} {size : Int} (ha : s.accepts (.blkWr size)) :
    exec (.blkWr size) s = .next (if sizeInvalid size then raise .invalidSize s
      else readModifyWrite (fun r => blockWord r s.inputs.din.toList size.toNat) s
        fun s => respondBlock size.toNat [] s) :=
  exec_of_accepts ha rfl

/-- What R124 says of a command that checks the size and then does what raises no error status. -/
theorem exec_sizeChecked {i : Instr} {size : Int} {s t : State} (ht : RaisesOnly [] s t)
    (hexec : exec i s = .next (if sizeInvalid size then raise .invalidSize s else t)) :
    ∃ t', exec i s = .next t' ∧ (size < 0 ∨ 16 < size → t' = raise .invalidSize s) ∧
      (0 ≤ size → size ≤ 16 → t'.pc = s.pc + 1 → t'.rsp.status = .ok) := by
  refine ⟨_, hexec, fun h => sizeChecked_of_invalid h s t, fun h0 h16 => ?_⟩
  rw [sizeChecked_of_valid h0 h16]
  exact fun hpc => (ht hpc).resolve_right List.not_mem_nil

/-- Settles O32: past the check, the accesses of the two commands lead to OK or to a fault. -/
theorem invalidSizeIsForOutOfRangeSizes : Obligations.InvalidSizeIsForOutOfRangeSizes := by
  rintro s size i (rfl | rfl) ha
  · exact exec_sizeChecked (.memRead (.answersOk rfl)) (exec_blkRd ha)
  · exact exec_sizeChecked (.readModifyWrite _ rfl) (exec_blkWr ha)

/-! ### BLK.RD (R123) -/

theorem exec_blkRd_of_le {s : State} {n : Nat} (hn : n ≤ 16) (ha : s.accepts (.blkRd n)) :
    exec (.blkRd n) s = .next (memRead 0 s fun r s => respondBlock n (unpack r n) s) :=
  (exec_blkRd ha).trans (congrArg _ (sizeChecked_of_valid (Int.natCast_nonneg n) (Int.ofNat_le.2 hn) _ _))

/-- Settles O31: the size check fails, or the one access completes or faults. -/
theorem blkRdUnpacksTheRegister : Obligations.BlkRdUnpacksTheRegister := by
  refine ⟨fun _ => rfl, fun s size hsize ha => ?_, fun s n hn ha => ?_⟩
  · exact (exec_blkRd ha).trans (congrArg _ (sizeChecked_of_invalid hsize _ _))
  · obtain ⟨hdone, hfault⟩ := exec_memRead (exec_blkRd_of_le hn ha)
    exact ⟨fun h => ⟨_, unpack_length s.reg n, unpack_getElem? s.reg n, hdone h⟩, hfault⟩

/-! ### BLK.WR (R125, R126) -/

theorem exec_blkWr_of_le {s : State} {n : Nat} (hn : n ≤ 16) (ha : s.accepts (.blkWr n)) :
    exec (.blkWr n) s = .next (readModifyWrite (fun r => blockWord r s.inputs.din.toList n) s
      fun s => respondBlock n [] s) :=
  (exec_blkWr ha).trans (congrArg _ (sizeChecked_of_valid (Int.natCast_nonneg n) (Int.ofNat_le.2 hn) _ _))

/-- `blockWord_getLsbD` with DIN as the buffer. -/
theorem blockWord_din_getLsbD (r : U16) (din : Vector U8 16) (n : Nat) (j : Fin 16) :
    (blockWord r din.toList n).getLsbD j.val = if j.val < n then byteSet din[j] else r.getLsbD j.val := by
  rw [blockWord_getLsbD _ _ _ _ j.isLt]
  simp [List.getD]

/-- Settles O33: the size check fails, or BLK.WR is a read/modify/write. -/
theorem blkWrPacksTheLowChannels : Obligations.BlkWrPacksTheLowChannels := by
  refine ⟨fun _ => rfl, fun s size hsize ha => ?_, fun s n hn ha => ?_⟩
  · exact (exec_blkWr ha).trans (congrArg _ (sizeChecked_of_invalid hsize _ _))
  · obtain ⟨hdone, hread, hwrite⟩ := exec_readModifyWrite (exec_blkWr_of_le hn ha)
    exact ⟨fun h0 h1 => ⟨_, blockWord_din_getLsbD s.reg s.inputs.din n, hdone h0 h1⟩, hread, hwrite⟩

/-! ### BLK.WR followed by BLK.RD (R127) -/

theorem sizeOk_of_le {n : Nat} (hn : n ≤ 16) : sizeOk n = true := decide_eq_true (by omega)

theorem blkWr_completes {s : State} {n : Nat} (hn : n ≤ 16) (hs : s.operational) (hi : s.issues 0 (.blkWr n)) :
    ∃ u, Completes s u ∧ u.reg = blockWord s.reg s.inputs.din.toList n := by
  have hdone := (exec_blkWr_of_le hn (State.accepts_of_operational hs rfl)).trans
    (congrArg _ (readModifyWrite_completes (hi.dBus 0) (hi.dBus 1) _ _))
  exact ⟨_, completes_of_accessed hs hi (sizeOk_of_le hn) (.readWrite _) hdone, rfl⟩

theorem blkRd_completes {s : State} {n : Nat} (hn : n ≤ 16) (hs : s.operational) (hi : s.issues 0 (.blkRd n)) :
    ∃ u, Completes s u ∧ u.rsp = ⟨.ok, 0, n, unpack s.reg n, []⟩ ∧ u.reg = s.reg :=
  completes_of_memRead hs hi (sizeOk_of_le hn) (exec_blkRd_of_le hn (State.accepts_of_operational hs rfl))

/-- Bits from `n` up are those of `r`; from 16 up, where there is no channel, both words have none. -/
theorem blockWord_getLsbD_of_le (r : U16) (buf : List U8) {n j : Nat} (h : n ≤ j) :
    (blockWord r buf n).getLsbD j = r.getLsbD j := by
  by_cases hj : j < 16
  · rw [blockWord_getLsbD _ _ _ _ hj, if_neg (Nat.not_lt.2 h)]
  · rw [BitVec.getLsbD_of_ge _ _ (Nat.not_lt.1 hj), BitVec.getLsbD_of_ge _ _ (Nat.not_lt.1 hj)]

/-- The low channels packed from DIN, unpacked again: byte j of DIN as a truth value. -/
theorem unpack_blockWord_getElem? (r : U16) (din : Vector U8 16) {n : Nat} (j : Fin 16) (hj : j.val < n) :
    (unpack (blockWord r din.toList n) n)[j.val]? = some (bit8 (byteSet din[j])) := by
  rw [unpack_getElem? _ _ _ hj, blockWord_din_getLsbD, if_pos hj]

theorem bit8_byteSet {b : U8} (h : b = 0x00#8 ∨ b = 0x01#8) : bit8 (byteSet b) = b := by
  obtain rfl | rfl := h <;> rfl

/-- A buffer over 0 and 1 is what `unpack` gives back. -/
theorem unpack_blockWord_eq_take (r : U16) {din : Vector U8 16} {n : Nat} (hn : n ≤ 16)
    (hdin : ∀ j : Fin 16, j.val < n → din[j] = 0x00#8 ∨ din[j] = 0x01#8) :
    unpack (blockWord r din.toList n) n = din.toList.take n := by
  refine List.ext_getElem? fun j => ?_
  by_cases hj : j < n
  · have hj16 : j < 16 := by omega
    have hbyte := hdin ⟨j, hj16⟩ hj
    rw [unpack_blockWord_getElem? r din ⟨j, hj16⟩ hj, bit8_byteSet hbyte]
    simp [hj, hj16]
  · rw [List.getElem?_eq_none (by simpa using hj), List.getElem?_eq_none (by simp; omega)]

/-- Settles O34: BLK.RD unpacks the word that BLK.WR has written. -/
theorem blockWriteThenReadRoundTrips : Obligations.BlockWriteThenReadRoundTrips := by
  intro s n hn hs hi hj
  obtain ⟨u, hu, hureg⟩ := blkWr_completes hn hs hi
  obtain ⟨t, ht, hrsp, htreg⟩ := blkRd_completes hn hu.operational (hu.issues hj)
  rw [hureg] at hrsp htreg
  have hhigh {j : Nat} (h : n ≤ j) := blockWord_getLsbD_of_le s.reg s.inputs.din.toList h
  refine ⟨u, t, hu.step, ht.step, ?_⟩
  rw [hrsp, hureg, htreg]
  refine ⟨rfl, rfl, unpack_length _ n, fun j hjn => ?_, unpack_blockWord_eq_take s.reg hn,
    fun j hjn => ⟨hhigh hjn, hhigh hjn⟩⟩
  rw [unpack_blockWord_getElem? s.reg s.inputs.din j hjn]
  simp only [bit8, byteSet, decide_eq_true_eq]

end Sys2Proof.Machine
end

section
/-! PROOFS. The statements of 43_lifecycle.md: what INIT and EXIT make of the register and the lifecycle (R150, R152,
R154), and what the first read after INIT answers (R153). -/

namespace Sys2Proof.Machine

/-! ### A command that comes to one register write -/

/-- The two ways a command ends whose last access is a register write, access number `k`. -/
theorem exec_memWrite {i : Instr} {s : State} {k : Nat} {v : U16} {after : State → State}
    (hi : exec i s = .next (memWrite k v s after)) :
    (s.inputs.dBus k = true → exec i s = .next (after ((s.regWritten v).logged (.wr v)))) ∧
    (s.inputs.dBus k = false → exec i s = .next s.busFaultOnWrite) :=
  ⟨fun h => hi.trans (congrArg _ (memWrite_completes h v after)),
    fun h => hi.trans (congrArg _ (memWrite_faults h v after))⟩

/-! ### INIT (R150, R152) -/

/-- Settles O38: allocation comes first. -/
theorem initWithoutStorageFails : Obligations.InitWithoutStorageFails :=
  fun _ _ ha halloc => (exec_of_accepts ha rfl).trans (congrArg _ (if_pos halloc))

/-- With the check disabled, only the register reset is left (R102). -/
theorem exec_init_unchecked {s : State} (ha : s.accepts (.init true)) (halloc : s.inputs.alloc = true) :
    exec (.init true) s = .next (initFinish 0 false s) := by
  rw [exec_of_accepts ha rfl, halloc]
  rfl

/-- On a header that passes the check, both header reads lead to the register reset. -/
theorem exec_init_checked {s : State} (ha : s.accepts (.init false)) (halloc : s.inputs.alloc = true)
    (h0 : s.inputs.dBus 0 = true) (h1 : s.inputs.dBus 1 = true) (hid : s.identityPasses) :
    exec (.init false) s = .next (initFinish 2 true s) := by
  rw [exec_init_validates ha halloc, validate_completes h0 h1, identityStatus_eq_ok_iff.2 hid]
  rfl

theorem identityPasses_iff (s : State) :
    s.identityPasses ↔ s.idh[0] = s.params.magic ∧ s.idh[1] ∈ acceptedCodes s.params.modelCodes := by
  rw [State.identityPasses, modelAccepted_iff_mem, idhWord_eq s 0 (by decide), idhWord_eq s 1 (by decide)]

/-- Settles O36: the register write is the first access. -/
theorem initWithoutTheCheckResetsTheRegister : Obligations.InitWithoutTheCheckResetsTheRegister :=
  ⟨rfl, fun _ ha halloc => exec_memWrite (exec_init_unchecked ha halloc)⟩

/-- Settles O37: the header passes, and the register write is the third access. -/
theorem initWithTheCheckResetsTheRegister : Obligations.InitWithTheCheckResetsTheRegister := by
  refine ⟨rfl, fun s ha halloc h0 h1 hmagic hcode => ?_⟩
  have hid : s.identityPasses := (identityPasses_iff s).2 ⟨hmagic, by simpa [acceptedCodes] using hcode⟩
  exact exec_memWrite (exec_init_checked ha halloc h0 h1 hid)

/-! ### Reads after INIT (R153) -/

/-- With every access completing, INIT comes to the register reset whether the check is enabled or not. -/
theorem exec_init_finishes {s : State} {nochk : Bool} (ha : s.accepts (.init nochk)) (halloc : s.inputs.alloc = true)
    (hbus : ∀ k, s.inputs.dBus k = true) (hid : nochk = false → s.identityPasses) :
    ∃ k, exec (.init nochk) s = .next (initFinish k (!nochk) s) := by
  cases nochk with
  | true => exact ⟨0, exec_init_unchecked ha halloc⟩
  | false => exact ⟨2, exec_init_checked ha halloc (hbus 0) (hbus 1) (hid rfl)⟩

/-- An INIT that succeeds leaves the block operational, one command further, with REG = 0. -/
theorem init_completes {s : State} {nochk : Bool} (hrun : s.running) (ha : s.accepts (.init nochk))
    (halloc : s.inputs.alloc = true) (hid : nochk = false → s.identityPasses) (hi : s.issues 0 (.init nochk)) :
    ∃ u, Completes s u ∧ u.reg = 0x0000#16 := by
  obtain ⟨k, hk⟩ := exec_init_finishes ha halloc hi.dBus hid
  obtain ⟨hdone, -⟩ := exec_memWrite hk
  obtain ⟨-, hp⟩ := ha
  refine ⟨_, ⟨(hi.step rfl hrun).trans (hdone (hi.dBus k)), ⟨hrun, rfl, hp⟩, ?_⟩, rfl⟩
  rintro n j ⟨x, hx, hnone⟩
  exact ⟨x, by rwa [← Nat.add_assoc, Nat.add_right_comm] at hx, hnone⟩

/-- Settles O39: REG.RD and CH.RD answer from a REG that INIT has left 0. -/
theorem readsAfterInitAreZero : Obligations.ReadsAfterInitAreZero := by
  intro s nochk hrun ha halloc hid hi
  obtain ⟨u, hu, hureg⟩ := init_completes hrun ha halloc hid hi
  refine ⟨fun hj => ?_, fun c hj => ?_⟩
  · obtain ⟨t, ht, hrsp⟩ := regRd_completes hu.operational (hu.issues hj)
    exact ⟨u, t, hu.step, ht.step, by rw [hrsp, hureg]; rfl⟩
  · obtain ⟨t, ht, hrsp, -⟩ := completes_of_memRead hu.operational (hu.issues hj) rfl
      (exec_chRd (State.accepts_of_operational hu.operational rfl))
    exact ⟨u, t, hu.step, ht.step, by rw [hrsp, hureg, BitVec.getLsbD_zero]; rfl⟩

/-! ### EXIT (R154) -/

theorem exec_exit {s : State} (ha : s.accepts .exit) :
    exec .exit s = .next (memWrite 0 0x0000#16 s fun s => respondOk s.released) :=
  exec_of_accepts ha rfl

/-- A completed EXIT leaves the block UNINIT, with the same open parameters. -/
theorem exec_exit_releases {s t : State} (ha : s.accepts .exit) (h0 : s.inputs.dBus 0 = true)
    (h : exec .exit s = .next t) : t.lstate = .uninit ∧ t.params = s.params := by
  obtain ⟨hdone, -⟩ := exec_memWrite (exec_exit ha)
  obtain rfl := Host.Outcome.next.inj ((hdone h0).symm.trans h)
  exact ⟨rfl, rfl⟩

/-- Settles O40: EXIT is one register write, and the lifecycle check then passes INIT only. -/
theorem exitResetsAndReleases : Obligations.ExitResetsAndReleases := by
  refine ⟨rfl, fun s t i ha h0 h => ?_, fun s hl => exec_wrongState hl, fun s ha => exec_memWrite (exec_exit ha)⟩
  obtain ⟨hl, hparams⟩ := exec_exit_releases ha h0 h
  obtain ⟨-, hp⟩ := ha
  refine ⟨fun hi => exec_wrongState ?_, fun b => ⟨hl, hparams ▸ hp⟩⟩
  rw [hl, needs_eq_ready hi]
  decide

end Sys2Proof.Machine
end

section
/-! PROOFS. The statement of 60_exceptions.md: what a command that completes with an error status changes (R178). -/

namespace Sys2Proof.Machine

/-- Of the ends of a command, only an error status raised advances the program index with a status other than OK. -/
theorem Ending.eq_raise {s t : State} (h : Ending s t) (hpc : t.pc = s.pc + 1) (hst : t.rsp.status ≠ .ok) :
    t = raise t.rsp.status s := by
  cases h with
  | completes hu hok => exact absurd hok hst
  | raises he => rfl
  | faults hu => exact absurd (hpc.symm.trans hu.pc) (Nat.succ_ne_self s.pc)
  | refuses r => exact absurd hpc.symm (Nat.succ_ne_self s.pc)

/-- Settles O43: `exec_ending` lists the ends of the command, and raising the status is the only one that fits. -/
theorem errorsChangeOnlyTheResponse : Obligations.ErrorsChangeOnlyTheResponse :=
  fun _ _ _ h hpc hst => (exec_ending h).eq_raise hpc hst

end Sys2Proof.Machine
end

section
/-! PROOFS. The two statements of 70_reset_and_hazards.md: the power-up state accepts INIT alone (R190), and every list
of commands runs to its end, a fault or a refusal (R187, R198). -/

namespace Sys2Proof.Machine

/-! ### Past its checks INIT refuses nothing -/

theorem idRead_refused {k j : Nat} {s : State} {after : U16 → State → State}
    (hafter : (after (s.idhWord j) s).refused = s.refused) : (idRead k j s after).refused = s.refused := by
  obtain ⟨-, hm⟩ | ⟨-, hm⟩ := idRead_cases k j s after <;> rw [hm]
  · exact hafter
  · rfl

theorem validate_refused {s : State} {after : Status → State → State}
    (hafter : ∀ st, (after st s).refused = s.refused) : (validate s after).refused = s.refused :=
  idRead_refused (idRead_refused (hafter _))

theorem initFinish_refused (k : Nat) (chk : Bool) (s : State) : (initFinish k chk s).refused = s.refused := by
  rw [initFinish]
  obtain ⟨-, hm⟩ | ⟨-, hm⟩ := memWrite_cases k 0x0000#16 s fun s => respondOk (s.bound chk) <;> rw [hm]
  · rfl
  · rfl

/-- An accepted INIT leaves REFUSED as it was, whether it succeeds, raises an error status or faults (R150). -/
theorem exec_init_refused {s : State} {nochk : Bool} (ha : s.accepts (.init nochk)) :
    ∃ t, exec (.init nochk) s = .next t ∧ t.refused = s.refused := by
  refine ⟨_, exec_of_accepts ha rfl, ?_⟩
  split
  · rfl
  · split
    · exact initFinish_refused 0 false s
    · refine validate_refused fun st => ?_
      split
      · rfl
      · exact initFinish_refused 2 true s

/-! ### The first command (R190) -/

/-- The power-up state is running, so its first step performs the first command of the list. -/
theorem step_powerUp {p : Config.Params} {idh : Vector U16 64} {d : U16} {c : Command} {prog : List Command}
    {i : Instr} (hi : decode c.cmd = .ok i) :
    step (State.powerUp p idh d (c :: prog)) = exec i (State.powerUp p idh d (c :: prog)) :=
  step_eq_exec ⟨rfl, rfl⟩ rfl hi

/-- Settles O1: at power-up LSTATE is UNINIT, so the lifecycle check passes INIT only, and an accepted INIT refuses
nothing. -/
theorem powerUpAcceptsOnlyInit : Obligations.PowerUpAcceptsOnlyInit := by
  refine ⟨fun _ _ _ _ => rfl, fun p idh d c prog i hi hne => ?_, fun p idh d c prog b hi hlegal => ?_,
    ⟨Config.params, Config.idh, Config.dReg0, rfl, rfl⟩⟩
  · have hl : (State.powerUp p idh d (c :: prog)).lstate ≠ needs i := by
      rw [needs_eq_ready hne]
      exact nofun
    exact (step_powerUp hi).trans (exec_wrongState hl)
  · rw [step_powerUp hi]
    exact exec_init_refused ⟨rfl, hlegal⟩

/-! ### Runs (R187, R197, R198) -/

/-- Every command has an answer, so a running block with a command to perform has a step (R198). -/
theorem step_of_fetch {s : State} {c : Command} (hs : s.running) (hc : s.fetch = some c) :
    ∃ t, step s = .next t := by
  cases hd : decode c.cmd with
  | error e => exact ⟨_, step_eq_refuse hs hc hd⟩
  | ok i =>
    obtain ⟨t, ht, -⟩ := exec_answers_performed i s
    exact ⟨t, (step_eq_exec hs hc hd).trans ht⟩

/-- A run can go no further from `s`: it has ended well, or FAULT or REFUSED is set. -/
def State.ended (s : State) : Prop := s.endsWell = true ∨ s.fault = .busFault ∨ s.refused.isSome = true

/-- A step ends the run by a fault or a refusal, or the block is running still, one command further in its list. -/
theorem step_ends_or_advances {s t : State} (h : step s = .next t) :
    t.ended ∨ (t.running ∧ t.pc = s.pc + 1 ∧ t.program = s.program) := by
  obtain ⟨-, -, hprog, -⟩ := stepKeepsHeaderParametersAndLog s t h
  obtain ⟨hf, hr, hpc, -⟩ | ⟨hf, hr, e, -, rfl⟩ | ⟨hf, -⟩ | ⟨r, rfl⟩ := everyStepCompletesFaultsOrRefuses s t h
  · exact .inr ⟨⟨hf, hr⟩, hpc, hprog⟩
  · exact .inr ⟨⟨hf, hr⟩, rfl, rfl⟩
  · exact .inl (.inr (.inl hf))
  · exact .inl (.inr (.inr rfl))

theorem run_succ_of_step (M : Host.Core) {s t : M.State} (h : M.step s = .next t) (n : Nat) :
    M.run (n + 1) s = M.run n t := by
  rw [Host.Core.run, h]

/-- With `k` commands left, a run from a running block has ended within `k` steps. -/
theorem run_ends_of_remaining (k : Nat) {s : State} (hs : s.running) (hk : s.pc + k = s.program.length) :
    ∃ n ≤ k, ∃ t : State, Sys2Proof.core.run n s = .next t ∧ t.ended := by
  induction k generalizing s with
  | zero => exact ⟨0, Nat.le_refl 0, s, rfl, .inl (decide_eq_true ⟨hk, hs⟩)⟩
  | succ k ih =>
    have hc : s.fetch = some (s.program[s.pc]'(by omega)) := List.getElem?_eq_getElem _
    obtain ⟨t, ht⟩ := step_of_fetch hs hc
    obtain hend | ⟨hrun, hpc, hprog⟩ := step_ends_or_advances ht
    · exact ⟨1, by omega, t, run_succ_of_step Sys2Proof.core ht 0, hend⟩
    · obtain ⟨n, hn, u, hu, hend⟩ := ih hrun (by rw [hpc, hprog]; omega)
      exact ⟨n + 1, by omega, u, (run_succ_of_step Sys2Proof.core ht n).trans hu, hend⟩

/-- Settles O17, by induction on the number of commands left. -/
theorem everyRunEndsWithinItsCommands : Obligations.EveryRunEndsWithinItsCommands :=
  fun _ hs hpc => run_ends_of_remaining _ hs (Nat.add_sub_cancel' hpc)

end Sys2Proof.Machine
end
